-- ==== Sys2Proof/Word.lean ====
section
/-! DEFINITION. The plain words of the device: bytes, value words, sample words, house times, and the two links. -/

namespace Sys2Proof

/-- One byte of a frame. -/
abbrev Byte := BitVec 8

/-- One value word of a report (R155). -/
abbrev Word := BitVec 32

/-- A sample word: 24-bit two's complement (file 00, Conventions). -/
abbrev Sample := BitVec 24

/-- House time: a 48-bit count of house sample instants (R8). -/
abbrev Time := BitVec 48

/-- The two media links. -/
inductive Link
  | l0
  | l1
deriving DecidableEq, Repr

/-- The link's number in operands and value words. -/
def Link.num : Link → Nat
  | .l0 => 0
  | .l1 => 1

/-- The link an operand of 0 or 1 names. -/
def Link.ofNat? : Nat → Option Link
  | 0 => some .l0
  | 1 => some .l1
  | _ => none

/-- One value for each of the two links. -/
structure PerLink (α : Type) where
  zero : α
  one : α
deriving DecidableEq, Repr

/-- The value of link `l`. -/
def PerLink.get {α : Type} (p : PerLink α) : Link → α
  | .l0 => p.zero
  | .l1 => p.one

/-- `p` with link `l`'s value replaced. -/
def PerLink.set {α : Type} (p : PerLink α) (l : Link) (x : α) : PerLink α :=
  match l with
  | .l0 => { p with zero := x }
  | .l1 => { p with one := x }

/-- The same value for both links. -/
def PerLink.both {α : Type} (x : α) : PerLink α := { zero := x, one := x }

end Sys2Proof
end

