-- ==== Sys2Proof/Config.lean ====
section
/-! DEFINITION. The sizes the manual fixes for the LPX-1264. The manual leaves no value open, so there is no free value here. -/

namespace Sys2Proof.Config

/-- Feeds 0 to 127 (file 00, Terms). -/
abbrev feeds : Nat := 128
/-- Buses 0 to 63 (file 01, Buses). -/
abbrev buses : Nat := 64
/-- Pages of sample memory (file 04). -/
abbrev pages : Nat := 512
/-- Sample words of one page (file 04). -/
abbrev pageWords : Nat := 256
/-- Pool banks (R118). -/
abbrev banks : Nat := 16
/-- Slots of one pool bank (R118). -/
abbrev bankSlots : Nat := 128
/-- Entries the report queue holds at most (R168). -/
abbrev reportCapacity : Nat := 64
/-- An event enters only below this entry count (R170). -/
abbrev eventLimit : Nat := 56
/-- Reports one report frame carries at most (R172). -/
abbrev reportsPerFrame : Nat := 8
/-- Cues the cue queue holds at most (R90). -/
abbrev cueCapacity : Nat := 256
/-- Frames a control FIFO holds at most (R156). -/
abbrev fifoCapacity : Nat := 4
/-- Frames a flow queue holds at most (R177). -/
abbrev flowCapacity : Nat := 16
/-- Frames a pass-through queue holds at most (R178). -/
abbrev passCapacity : Nat := 32
/-- Greatest bus delay (R21). -/
abbrev maxDelay : Nat := 4800
/-- Greatest late tolerance (R93). -/
abbrev maxTolerance : Nat := 9600
/-- Unity bus trim, also its maximum (R20). -/
abbrev unityTrim : Nat := 32768
/-- Maximum of a 16-bit saturating counter (file 00, Conventions). -/
abbrev max16 : Nat := 65535
/-- Maximum of a 32-bit saturating counter (file 00, Conventions). -/
abbrev max32 : Nat := 4294967295

end Sys2Proof.Config
end

