-- ==== Sys2Proof/Syntax.lean ====
section
/-! DEFINITION. The commands of the device: one constructor of `Instr` for each row of spec/opcode_table.json, with the row's operands. -/

namespace Sys2Proof

/-- What every command of a control frame carries besides its code and operands (R152), and the link whose control path takes it. -/
structure Hdr where
  /-- the link whose control path takes the command -/
  link : Link
  /-- the acknowledged flag -/
  acked : Bool
  /-- the activation time of a command whose timed flag is set -/
  timed : Option Nat
  /-- the tag, 0 to 65,535 -/
  tag : Nat
  /-- whether the operand length is one the command's operands can have (R164); when it is not, no operand is read -/
  lenOk : Bool
deriving DecidableEq, Repr

/-- The three fields of a narrow key, each as value and care mask (R110). -/
structure NarrowKey where
  linkV : Nat
  linkC : Nat
  streamV : Nat
  streamC : Nat
  classV : Nat
  classC : Nat
deriving DecidableEq, Repr

/-- The three fields a wide key adds, each as value and care mask (R110). -/
structure WideKey where
  programV : Nat
  programC : Nat
  languageV : Nat
  languageC : Nat
  rateV : Nat
  rateC : Nat
deriving DecidableEq, Repr

/-- The commands. A command of a control frame carries its operands as they arrived: enumerated operands are still the numbers of R152, and no range has been checked. -/
inductive Instr
  -- pins and start-up
  | rstnLow
  | rstnRelease
  | powerUp
  | startingEnd
  -- link interfaces
  | linkSample (link : Link) (present : Bool)
  | frameArrival (link : Link) (bytes : List Byte)
  -- the work of a sample instant
  | sampleInstant
  | cueApply
  | busSettle (bus : Nat)
  | feedStart (feed : Nat)
  | servoRun (feed : Nat)
  | drainEnd (feed : Nat)
  | rampEnd (index : Nat)
  | busFrameComplete (link : Link)
  -- egress and control path
  | frameSent (link : Link)
  | waitingCommandTaken (link : Link)
  -- entry steps of the block operation
  | moveStep
  | fillStep
  | scanStep
  | clearHitsStep
  -- commands of control frames
  | unknownCommand (h : Hdr) (code : Nat)
  | startEngine (h : Hdr)
  | stopEngine (h : Hdr)
  | resetDevice (h : Hdr)
  | setHouseRate (h : Hdr) (rate : Nat)
  | setHouseTime (h : Hdr) (time : Nat)
  | setLinkFraming (h : Hdr) (link k : Nat)
  | readTime (h : Hdr)
  | setRouteGain (h : Hdr) (index target length : Nat)
  | enableBus (h : Hdr) (bus : Nat)
  | disableBus (h : Hdr) (bus : Nat)
  | setBusTrim (h : Hdr) (bus trim : Nat)
  | setBusMute (h : Hdr) (bus mute : Nat)
  | setBusMode (h : Hdr) (bus mode solo : Nat)
  | setBusDelay (h : Hdr) (bus delay : Nat)
  | setBusLink (h : Hdr) (bus link : Nat)
  | readBus (h : Hdr) (bus : Nat)
  | ackBusEvents (h : Hdr) (bus clear : Nat)
  | loadKernelRows (h : Hdr) (set first count : Nat) (coefs : List Int)
  | validateKernelSet (h : Hdr) (set : Nat)
  | openFeed (h : Hdr) (feed rate set pages target autoFlow returnLink : Nat) (start : Option Nat)
  | closeFeed (h : Hdr) (feed mode : Nat)
  | retuneFeed (h : Hdr) (feed rate : Nat) (set : Option Nat)
  | setFeedTarget (h : Hdr) (feed target : Nat)
  | holdFeed (h : Hdr) (feed : Nat)
  | releaseFeed (h : Hdr) (feed : Nat)
  | readFeed (h : Hdr) (feed part : Nat)
  | ackFeedEvents (h : Hdr) (feed clear : Nat)
  | readPool (h : Hdr) (part : Nat) (number : Option Nat)
  | cancelCues (h : Hdr) (tag : Nat)
  | readCues (h : Hdr)
  | setLateTolerance (h : Hdr) (tolerance : Nat)
  | setWindow (h : Hdr) (window enabled filter base mask translate destination clear : Nat)
  | readWindow (h : Hdr) (window clear : Nat)
  | setDefaultRule (h : Hdr) (link verdict feed clear : Nat)
  | readDefaultRule (h : Hdr) (link clear : Nat)
  | assignBank (h : Hdr) (bank table : Nat)
  | stageRule (h : Hdr) (kind state : Nat) (key : NarrowKey) (wide : Option WideKey) (verdict feed : Nat)
  | stageRoute (h : Hdr) (feed bus polarity gain : Nat)
  | clearStaging (h : Hdr)
  | writeEntry (h : Hdr) (table index : Nat)
  | readEntry (h : Hdr) (table index : Nat)
  | enableRule (h : Hdr) (index : Nat)
  | disableRule (h : Hdr) (index : Nat)
  | move (h : Hdr) (table source dest count : Nat)
  | fill (h : Hdr) (table first count : Nat)
  | scan (h : Hdr) (table first count selector mode : Nat)
  | clearHits (h : Hdr) (first count : Nat)
  | suspendBlock (h : Hdr)
  | resumeBlock (h : Hdr)
  | abandonBlock (h : Hdr)
  | setLinkRole (h : Hdr) (link role : Nat)
  | setReportLink (h : Hdr) (link : Nat)
  | readLinkCounters (h : Hdr) (link clear : Nat)
deriving DecidableEq, Repr

end Sys2Proof
end

