-- ==== Sys2Proof/Decode.lean ====
section
/-! DEFINITION. Commands as bytes: `decodeTableWord` for the opcode table's own bits, and the command layout of R152, read and written. -/

namespace Sys2Proof

/-- No row of spec/opcode_table.json gives bits, so no word spells a command by the table (log entry 3). -/
def decodeTableWord (_nbits _w : Nat) : Option Instr := none

/-! ### Multi-byte fields, most significant byte first (file 00, Conventions) -/

def nat1 (a : Byte) : Nat := a.toNat
def nat2 (a b : Byte) : Nat := a.toNat * 256 + b.toNat
def nat4 (a b c d : Byte) : Nat := nat2 a b * 65536 + nat2 c d
def nat6 (a b c d e f : Byte) : Nat := nat4 a b c d * 65536 + nat2 e f

/-- A three-byte two's-complement operand (R152). -/
def int3 (a b c : Byte) : Int :=
  let n := a.toNat * 65536 + nat2 b c
  if n < 8388608 then (n : Int) else (n : Int) - 16777216

def bytes1 (n : Nat) : List Byte := [BitVec.ofNat 8 n]
def bytes2 (n : Nat) : List Byte := [BitVec.ofNat 8 (n / 256), BitVec.ofNat 8 n]
def bytes4 (n : Nat) : List Byte := bytes2 (n / 65536) ++ bytes2 n
def bytes6 (n : Nat) : List Byte := bytes4 (n / 65536) ++ bytes2 n
def bytes3 (n : Nat) : List Byte := BitVec.ofNat 8 (n / 65536) :: bytes2 n

/-- A signed operand as three bytes. -/
def bytes3s (x : Int) : List Byte := bytes3 (x % 16777216).toNat

/-- The three-byte signed operands of a list of bytes; none where a byte is left over. -/
def ints3 : List Byte → Option (List Int)
  | [] => some []
  | a :: b :: c :: rest => (ints3 rest).map (int3 a b c :: ·)
  | _ => none

/-! ### The command-code table (file 08) -/

/-- The header of a command of a control frame; none for the other rows. -/
def Instr.hdr? : Instr → Option Hdr
  | .unknownCommand h _ | .startEngine h | .stopEngine h | .resetDevice h | .setHouseRate h _ | .setHouseTime h _
  | .setLinkFraming h _ _ | .readTime h | .setRouteGain h _ _ _ | .enableBus h _ | .disableBus h _ | .setBusTrim h _ _
  | .setBusMute h _ _ | .setBusMode h _ _ _ | .setBusDelay h _ _ | .setBusLink h _ _ | .readBus h _ | .ackBusEvents h _ _
  | .loadKernelRows h _ _ _ _ | .validateKernelSet h _ | .openFeed h _ _ _ _ _ _ _ _ | .closeFeed h _ _
  | .retuneFeed h _ _ _ | .setFeedTarget h _ _ | .holdFeed h _ | .releaseFeed h _ | .readFeed h _ _
  | .ackFeedEvents h _ _ | .readPool h _ _ | .cancelCues h _ | .readCues h | .setLateTolerance h _
  | .setWindow h _ _ _ _ _ _ _ _ | .readWindow h _ _ | .setDefaultRule h _ _ _ _ | .readDefaultRule h _ _
  | .assignBank h _ _ | .stageRule h _ _ _ _ _ _ | .stageRoute h _ _ _ _ | .clearStaging h | .writeEntry h _ _
  | .readEntry h _ _ | .enableRule h _ | .disableRule h _ | .move h _ _ _ _ | .fill h _ _ _ | .scan h _ _ _ _ _
  | .clearHits h _ _ | .suspendBlock h | .resumeBlock h | .abandonBlock h | .setLinkRole h _ _ | .setReportLink h _
  | .readLinkCounters h _ _ => some h
  | .rstnLow | .rstnRelease | .powerUp | .startingEnd | .linkSample _ _ | .frameArrival _ _ | .sampleInstant | .cueApply
  | .busSettle _ | .feedStart _ | .servoRun _ | .drainEnd _ | .rampEnd _ | .busFrameComplete _ | .frameSent _
  | .waitingCommandTaken _ | .moveStep | .fillStep | .scanStep | .clearHitsStep => none

/-- The command code (file 08, Command codes); 0 for a row that is no command of a control frame. -/
def Instr.code : Instr → Nat
  | .startEngine _ => 0x01
  | .stopEngine _ => 0x02
  | .resetDevice _ => 0x03
  | .setHouseRate _ _ => 0x04
  | .setHouseTime _ _ => 0x05
  | .setLinkFraming _ _ _ => 0x06
  | .readTime _ => 0x07
  | .setRouteGain _ _ _ _ => 0x10
  | .enableBus _ _ => 0x11
  | .disableBus _ _ => 0x12
  | .setBusTrim _ _ _ => 0x13
  | .setBusMute _ _ _ => 0x14
  | .setBusMode _ _ _ _ => 0x15
  | .setBusDelay _ _ _ => 0x16
  | .setBusLink _ _ _ => 0x17
  | .readBus _ _ => 0x18
  | .ackBusEvents _ _ _ => 0x19
  | .loadKernelRows _ _ _ _ _ => 0x20
  | .validateKernelSet _ _ => 0x21
  | .openFeed _ _ _ _ _ _ _ _ _ => 0x22
  | .closeFeed _ _ _ => 0x23
  | .retuneFeed _ _ _ _ => 0x24
  | .setFeedTarget _ _ _ => 0x25
  | .holdFeed _ _ => 0x26
  | .releaseFeed _ _ => 0x27
  | .readFeed _ _ _ => 0x28
  | .ackFeedEvents _ _ _ => 0x29
  | .readPool _ _ _ => 0x2A
  | .cancelCues _ _ => 0x30
  | .readCues _ => 0x31
  | .setLateTolerance _ _ => 0x32
  | .setWindow _ _ _ _ _ _ _ _ _ => 0x38
  | .readWindow _ _ _ => 0x39
  | .setDefaultRule _ _ _ _ _ => 0x3A
  | .readDefaultRule _ _ _ => 0x3B
  | .assignBank _ _ _ => 0x40
  | .stageRule _ _ _ _ _ _ _ => 0x41
  | .stageRoute _ _ _ _ _ => 0x42
  | .clearStaging _ => 0x43
  | .writeEntry _ _ _ => 0x44
  | .readEntry _ _ _ => 0x45
  | .enableRule _ _ => 0x46
  | .disableRule _ _ => 0x47
  | .move _ _ _ _ _ => 0x48
  | .fill _ _ _ _ => 0x49
  | .scan _ _ _ _ _ _ => 0x4A
  | .clearHits _ _ _ => 0x4B
  | .suspendBlock _ => 0x4C
  | .resumeBlock _ => 0x4D
  | .abandonBlock _ => 0x4E
  | .setLinkRole _ _ _ => 0x50
  | .setReportLink _ _ => 0x51
  | .readLinkCounters _ _ _ => 0x52
  | .unknownCommand _ code => code
  | .rstnLow | .rstnRelease | .powerUp | .startingEnd | .linkSample _ _ | .frameArrival _ _ | .sampleInstant | .cueApply
  | .busSettle _ | .feedStart _ | .servoRun _ | .drainEnd _ | .rampEnd _ | .busFrameComplete _ | .frameSent _
  | .waitingCommandTaken _ | .moveStep | .fillStep | .scanStep | .clearHitsStep => 0

/-! ### Operands (R152): each takes the fewest whole bytes that hold its range -/

/-- The header of a command whose operand length fits none of its forms. -/
def Hdr.bad (h : Hdr) : Hdr := { h with lenOk := false }

def readOps0 (f : Hdr → Instr) (h : Hdr) : List Byte → Instr
  | [] => f h
  | _ => f h.bad

def readOps1 (f : Hdr → Nat → Instr) (h : Hdr) : List Byte → Instr
  | [a] => f h (nat1 a)
  | _ => f h.bad 0

def readOps2 (f : Hdr → Nat → Instr) (h : Hdr) : List Byte → Instr
  | [a, b] => f h (nat2 a b)
  | _ => f h.bad 0

def readOps4 (f : Hdr → Nat → Instr) (h : Hdr) : List Byte → Instr
  | [a, b, c, d] => f h (nat4 a b c d)
  | _ => f h.bad 0

def readOps6 (f : Hdr → Nat → Instr) (h : Hdr) : List Byte → Instr
  | [a, b, c, d, e, g] => f h (nat6 a b c d e g)
  | _ => f h.bad 0

def readOps11 (f : Hdr → Nat → Nat → Instr) (h : Hdr) : List Byte → Instr
  | [a, b] => f h (nat1 a) (nat1 b)
  | _ => f h.bad 0 0

def readOps12 (f : Hdr → Nat → Nat → Instr) (h : Hdr) : List Byte → Instr
  | [a, b, c] => f h (nat1 a) (nat2 b c)
  | _ => f h.bad 0 0

def readOps22 (f : Hdr → Nat → Nat → Instr) (h : Hdr) : List Byte → Instr
  | [a, b, c, d] => f h (nat2 a b) (nat2 c d)
  | _ => f h.bad 0 0

def readOps111 (f : Hdr → Nat → Nat → Nat → Instr) (h : Hdr) : List Byte → Instr
  | [a, b, c] => f h (nat1 a) (nat1 b) (nat1 c)
  | _ => f h.bad 0 0 0

def readOps122 (f : Hdr → Nat → Nat → Nat → Instr) (h : Hdr) : List Byte → Instr
  | [a, b, c, d, e] => f h (nat1 a) (nat2 b c) (nat2 d e)
  | _ => f h.bad 0 0 0

def readOps222 (f : Hdr → Nat → Nat → Nat → Instr) (h : Hdr) : List Byte → Instr
  | [a, b, c, d, e, g] => f h (nat2 a b) (nat2 c d) (nat2 e g)
  | _ => f h.bad 0 0 0

def readOps1222 (f : Hdr → Nat → Nat → Nat → Nat → Instr) (h : Hdr) : List Byte → Instr
  | [a, b, c, d, e, g, i] => f h (nat1 a) (nat2 b c) (nat2 d e) (nat2 g i)
  | _ => f h.bad 0 0 0 0

def readOps1111 (f : Hdr → Nat → Nat → Nat → Nat → Instr) (h : Hdr) : List Byte → Instr
  | [a, b, c, d] => f h (nat1 a) (nat1 b) (nat1 c) (nat1 d)
  | _ => f h.bad 0 0 0 0

def readOps1112 (f : Hdr → Nat → Nat → Nat → Nat → Instr) (h : Hdr) : List Byte → Instr
  | [a, b, c, d, e] => f h (nat1 a) (nat1 b) (nat1 c) (nat2 d e)
  | _ => f h.bad 0 0 0 0

def readOpenFeed (h : Hdr) : List Byte → Instr
  | [f, r, k, p, t1, t0, a, l] => .openFeed h (nat1 f) (nat1 r) (nat1 k) (nat1 p) (nat2 t1 t0) (nat1 a) (nat1 l) none
  | [f, r, k, p, t1, t0, a, l, s5, s4, s3, s2, s1, s0] =>
    .openFeed h (nat1 f) (nat1 r) (nat1 k) (nat1 p) (nat2 t1 t0) (nat1 a) (nat1 l) (some (nat6 s5 s4 s3 s2 s1 s0))
  | _ => .openFeed h.bad 0 0 0 0 0 0 0 none

def readRetuneFeed (h : Hdr) : List Byte → Instr
  | [f, r] => .retuneFeed h (nat1 f) (nat1 r) none
  | [f, r, k] => .retuneFeed h (nat1 f) (nat1 r) (some (nat1 k))
  | _ => .retuneFeed h.bad 0 0 none

def readReadPool (h : Hdr) : List Byte → Instr
  | [p] => .readPool h (nat1 p) none
  | [p, n1, n0] => .readPool h (nat1 p) (some (nat2 n1 n0))
  | _ => .readPool h.bad 0 none

def readSetWindow (h : Hdr) : List Byte → Instr
  | [w, e, f, b1, b0, m1, m0, t1, t0, d, c] =>
    .setWindow h (nat1 w) (nat1 e) (nat1 f) (nat2 b1 b0) (nat2 m1 m0) (nat2 t1 t0) (nat1 d) (nat1 c)
  | _ => .setWindow h.bad 0 0 0 0 0 0 0 0

/-- The key a refused length leaves unread. -/
def NarrowKey.zero : NarrowKey := ⟨0, 0, 0, 0, 0, 0⟩

def readStageRule (h : Hdr) : List Byte → Instr
  | [k, s, lv, lc, s1, s0, c1, c0, cv, cc, v, f] =>
    .stageRule h (nat1 k) (nat1 s) ⟨nat1 lv, nat1 lc, nat2 s1 s0, nat2 c1 c0, nat1 cv, nat1 cc⟩ none (nat1 v) (nat1 f)
  | [k, s, lv, lc, s1, s0, c1, c0, cv, cc, pv, pc, gv, gc, rv, rc, v, f] =>
    .stageRule h (nat1 k) (nat1 s) ⟨nat1 lv, nat1 lc, nat2 s1 s0, nat2 c1 c0, nat1 cv, nat1 cc⟩
      (some ⟨nat1 pv, nat1 pc, nat1 gv, nat1 gc, nat1 rv, nat1 rc⟩) (nat1 v) (nat1 f)
  | _ => .stageRule h.bad 0 0 NarrowKey.zero none 0 0

/-- LOAD KERNEL ROWS takes 3 bytes and then whole rows of 16 three-byte coefficients, 1 to 4 of them; whether their number
matches the row count is the owner's check (R29, R164). -/
def readLoadKernelRows (h : Hdr) : List Byte → Instr
  | s :: f :: n :: rest =>
    match ints3 rest with
    | some cs =>
      if cs.length = 16 ∨ cs.length = 32 ∨ cs.length = 48 ∨ cs.length = 64 then
        .loadKernelRows h (nat1 s) (nat1 f) (nat1 n) cs
      else .loadKernelRows h.bad 0 0 0 []
    | none => .loadKernelRows h.bad 0 0 0 []
  | _ => .loadKernelRows h.bad 0 0 0 []

/-- The command with code `code` and operand bytes `ops` (R152, R164). -/
def readCommand (h : Hdr) (code : Nat) (ops : List Byte) : Instr :=
  match code with
  | 0x01 => readOps0 .startEngine h ops
  | 0x02 => readOps0 .stopEngine h ops
  | 0x03 => readOps0 .resetDevice h ops
  | 0x04 => readOps4 .setHouseRate h ops
  | 0x05 => readOps6 .setHouseTime h ops
  | 0x06 => readOps11 .setLinkFraming h ops
  | 0x07 => readOps0 .readTime h ops
  | 0x10 => readOps222 .setRouteGain h ops
  | 0x11 => readOps1 .enableBus h ops
  | 0x12 => readOps1 .disableBus h ops
  | 0x13 => readOps12 .setBusTrim h ops
  | 0x14 => readOps11 .setBusMute h ops
  | 0x15 => readOps111 .setBusMode h ops
  | 0x16 => readOps12 .setBusDelay h ops
  | 0x17 => readOps11 .setBusLink h ops
  | 0x18 => readOps1 .readBus h ops
  | 0x19 => readOps11 .ackBusEvents h ops
  | 0x20 => readLoadKernelRows h ops
  | 0x21 => readOps1 .validateKernelSet h ops
  | 0x22 => readOpenFeed h ops
  | 0x23 => readOps11 .closeFeed h ops
  | 0x24 => readRetuneFeed h ops
  | 0x25 => readOps12 .setFeedTarget h ops
  | 0x26 => readOps1 .holdFeed h ops
  | 0x27 => readOps1 .releaseFeed h ops
  | 0x28 => readOps11 .readFeed h ops
  | 0x29 => readOps11 .ackFeedEvents h ops
  | 0x2A => readReadPool h ops
  | 0x30 => readOps2 .cancelCues h ops
  | 0x31 => readOps0 .readCues h ops
  | 0x32 => readOps2 .setLateTolerance h ops
  | 0x38 => readSetWindow h ops
  | 0x39 => readOps11 .readWindow h ops
  | 0x3A => readOps1111 .setDefaultRule h ops
  | 0x3B => readOps11 .readDefaultRule h ops
  | 0x40 => readOps11 .assignBank h ops
  | 0x41 => readStageRule h ops
  | 0x42 => readOps1112 .stageRoute h ops
  | 0x43 => readOps0 .clearStaging h ops
  | 0x44 => readOps12 .writeEntry h ops
  | 0x45 => readOps12 .readEntry h ops
  | 0x46 => readOps2 .enableRule h ops
  | 0x47 => readOps2 .disableRule h ops
  | 0x48 => readOps1222 .move h ops
  | 0x49 => readOps122 .fill h ops
  | 0x4A =>
    match ops with
    | [t, f1, f0, c1, c0, s1, s0, m] => .scan h (nat1 t) (nat2 f1 f0) (nat2 c1 c0) (nat2 s1 s0) (nat1 m)
    | _ => .scan h.bad 0 0 0 0 0
  | 0x4B => readOps22 .clearHits h ops
  | 0x4C => readOps0 .suspendBlock h ops
  | 0x4D => readOps0 .resumeBlock h ops
  | 0x4E => readOps0 .abandonBlock h ops
  | 0x50 => readOps11 .setLinkRole h ops
  | 0x51 => readOps1 .setReportLink h ops
  | 0x52 => readOps11 .readLinkCounters h ops
  | c => .unknownCommand h c

/-- The command area of a control frame split into commands, with no code or operand judged: each is its code, flag byte, tag,
activation time and operand bytes (R152). -/
structure RawCommand where
  code : Byte
  flags : Byte
  tag : Nat
  timed : Option Nat
  ops : List Byte
deriving DecidableEq, Repr

/-- The next command of a command area and the bytes behind it; none where the area ends inside it (R146). -/
def readRaw : List Byte → Option (RawCommand × List Byte)
  | code :: flags :: t1 :: t0 :: m :: rest =>
    if flags.getLsbD 1 then
      match rest with
      | a :: b :: c :: d :: e :: f :: rest =>
        if m.toNat ≤ rest.length then
          some (⟨code, flags, nat2 t1 t0, some (nat6 a b c d e f), rest.take m.toNat⟩, rest.drop m.toNat)
        else none
      | _ => none
    else if m.toNat ≤ rest.length then
      some (⟨code, flags, nat2 t1 t0, none, rest.take m.toNat⟩, rest.drop m.toNat)
    else none
  | _ => none

/-- A command area as exactly `count` commands, with no byte left over (R146). -/
def readArea : (count : Nat) → List Byte → Option (List RawCommand)
  | 0, [] => some []
  | 0, _ :: _ => none
  | n + 1, bs =>
    match readRaw bs with
    | some (c, rest) => (readArea n rest).map (c :: ·)
    | none => none

/-- The command of a split one, taken on link `l`. -/
def RawCommand.instr (c : RawCommand) (l : Link) : Instr :=
  readCommand { link := l, acked := c.flags.getLsbD 0, timed := c.timed, tag := c.tag, lenOk := true } c.code.toNat c.ops

/-! ### The encoder of the same layout -/

/-- Operand bytes of a command whose operand length is good. -/
def Instr.operands : Instr → List Byte
  | .setHouseRate _ r => bytes4 r
  | .setHouseTime _ t => bytes6 t
  | .setLinkFraming _ l k => bytes1 l ++ bytes1 k
  | .setRouteGain _ i t n => bytes2 i ++ bytes2 t ++ bytes2 n
  | .enableBus _ b | .disableBus _ b | .readBus _ b => bytes1 b
  | .setBusTrim _ b t => bytes1 b ++ bytes2 t
  | .setBusMute _ b m => bytes1 b ++ bytes1 m
  | .setBusMode _ b m f => bytes1 b ++ bytes1 m ++ bytes1 f
  | .setBusDelay _ b d => bytes1 b ++ bytes2 d
  | .setBusLink _ b l => bytes1 b ++ bytes1 l
  | .ackBusEvents _ b c => bytes1 b ++ bytes1 c
  | .loadKernelRows _ s f n cs => bytes1 s ++ bytes1 f ++ bytes1 n ++ cs.flatMap bytes3s
  | .validateKernelSet _ s => bytes1 s
  | .openFeed _ f r k p t a l st =>
    bytes1 f ++ bytes1 r ++ bytes1 k ++ bytes1 p ++ bytes2 t ++ bytes1 a ++ bytes1 l ++
      (match st with | some x => bytes6 x | none => [])
  | .closeFeed _ f m => bytes1 f ++ bytes1 m
  | .retuneFeed _ f r k => bytes1 f ++ bytes1 r ++ (match k with | some x => bytes1 x | none => [])
  | .setFeedTarget _ f t => bytes1 f ++ bytes2 t
  | .holdFeed _ f | .releaseFeed _ f => bytes1 f
  | .readFeed _ f p => bytes1 f ++ bytes1 p
  | .ackFeedEvents _ f c => bytes1 f ++ bytes1 c
  | .readPool _ p n => bytes1 p ++ (match n with | some x => bytes2 x | none => [])
  | .cancelCues _ t => bytes2 t
  | .setLateTolerance _ t => bytes2 t
  | .setWindow _ w e f b m t d c =>
    bytes1 w ++ bytes1 e ++ bytes1 f ++ bytes2 b ++ bytes2 m ++ bytes2 t ++ bytes1 d ++ bytes1 c
  | .readWindow _ w c => bytes1 w ++ bytes1 c
  | .setDefaultRule _ l v f c => bytes1 l ++ bytes1 v ++ bytes1 f ++ bytes1 c
  | .readDefaultRule _ l c => bytes1 l ++ bytes1 c
  | .assignBank _ b t => bytes1 b ++ bytes1 t
  | .stageRule _ k s key w v f =>
    bytes1 k ++ bytes1 s ++ bytes1 key.linkV ++ bytes1 key.linkC ++ bytes2 key.streamV ++ bytes2 key.streamC ++
      bytes1 key.classV ++ bytes1 key.classC ++
      (match w with
       | some x => bytes1 x.programV ++ bytes1 x.programC ++ bytes1 x.languageV ++ bytes1 x.languageC ++ bytes1 x.rateV ++
           bytes1 x.rateC
       | none => []) ++ bytes1 v ++ bytes1 f
  | .stageRoute _ f b p g => bytes1 f ++ bytes1 b ++ bytes1 p ++ bytes2 g
  | .writeEntry _ t i | .readEntry _ t i => bytes1 t ++ bytes2 i
  | .enableRule _ i | .disableRule _ i => bytes2 i
  | .move _ t a b n => bytes1 t ++ bytes2 a ++ bytes2 b ++ bytes2 n
  | .fill _ t a n => bytes1 t ++ bytes2 a ++ bytes2 n
  | .scan _ t a n s m => bytes1 t ++ bytes2 a ++ bytes2 n ++ bytes2 s ++ bytes1 m
  | .clearHits _ a n => bytes2 a ++ bytes2 n
  | .setLinkRole _ l r => bytes1 l ++ bytes1 r
  | .setReportLink _ l => bytes1 l
  | .readLinkCounters _ l c => bytes1 l ++ bytes1 c
  | .unknownCommand _ _ | .startEngine _ | .stopEngine _ | .resetDevice _ | .readTime _ | .readCues _ | .clearStaging _
  | .suspendBlock _ | .resumeBlock _ | .abandonBlock _ | .rstnLow | .rstnRelease | .powerUp | .startingEnd
  | .linkSample _ _ | .frameArrival _ _ | .sampleInstant | .cueApply | .busSettle _ | .feedStart _ | .servoRun _
  | .drainEnd _ | .rampEnd _ | .busFrameComplete _ | .frameSent _ | .waitingCommandTaken _ | .moveStep | .fillStep
  | .scanStep | .clearHitsStep => []

/-- The flag byte: bit 0 acknowledged, bit 1 timed (R152). -/
def Hdr.flagByte (h : Hdr) : Byte :=
  BitVec.ofNat 8 ((if h.acked then 1 else 0) + (if h.timed.isSome then 2 else 0))

/-- A command with header `h` as the bytes of R152. -/
def encodeCommand (h : Hdr) (i : Instr) : List Byte :=
  [BitVec.ofNat 8 i.code, h.flagByte] ++ bytes2 h.tag ++ [BitVec.ofNat 8 i.operands.length] ++
    (match h.timed with | some t => bytes6 t | none => []) ++ i.operands

end Sys2Proof
end

