-- ==== Sys2Proof/Machine/Types.lean ====
section
/-! DEFINITION. The records and names State is made of, each with the table of the manual it follows. -/

namespace Sys2Proof.Machine

/-! ### Engine (R1, R2) -/

inductive Engine
  | starting
  | config
  | run
deriving DecidableEq, Repr

inductive HouseRate
  | r48000
  | r96000
deriving DecidableEq, Repr

/-! ### Buses (file 01, Buses) -/

inductive BusState
  | disabled
  | enabling
  | enabled
  | disabling
deriving DecidableEq, Repr

inductive BusMode
  | normal
  | solo
  | silent
deriving DecidableEq, Repr

/-- A bus record. The delay line's values lie in sample memory, in `pages` from position `index` on (R81). -/
structure Bus where
  state : BusState
  mode : BusMode
  soloFeed : Nat
  trim : Nat
  mute : Bool
  delay : Nat
  pages : List Nat
  index : Nat
  link : Option Link
  clipCount : Nat
  clipFlag : Bool
deriving DecidableEq, Repr

/-! ### Kernel memory (R27) -/

inductive KernelState
  | empty
  | loading
  | ready
deriving DecidableEq, Repr

/-- A kernel set: the rows by number (an unlisted row holds zeros), the 65 written-row flags and the in-use count. -/
structure KernelSet where
  state : KernelState
  rows : List (Nat × List Int)
  written : BitVec 65
  inUse : Nat
deriving DecidableEq, Repr

/-! ### Feeds (file 03, The feed context; file 02, Conversion fields) -/

inductive FeedState
  | closed
  | priming
  | running
  | starved
  | draining
deriving DecidableEq, Repr

/-- The ten sticky event flags, in the bit order of R72. -/
inductive Sticky
  | streamConflict
  | rateMismatch
  | gap
  | lateFrame
  | overflow
  | underrun
  | feedClip
  | stateRunning
  | stateStarved
  | stateClosed
deriving DecidableEq, Repr

/-- A feed context: the feed unit's fields, then the rate converter's. The capacity is 256 words a page (R46). -/
structure Feed where
  state : FeedState
  binding : Option (Link × Nat)
  returnLink : Link
  pages : List Nat
  readIndex : Nat
  writeIndex : Nat
  fill : Nat
  target : Nat
  start : Option Time
  autoFlow : Bool
  hold : Bool
  critical : Bool
  paused : Bool
  parity : Bool
  expected : Option Nat
  overflowCount : Nat
  underrunCount : Nat
  gapCount : Nat
  lateCount : Nat
  sticky : BitVec 10
  rateCode : Nat
  kernel : Nat
  nominal : Nat
  correction : Int
  integrator : Int
  step : Int
  position : Nat
  history : List Sample
  clipCount : Nat
deriving DecidableEq, Repr

/-! ### Page pool (R74) -/

inductive Owner
  | free
  | feed (n : Nat)
  | bus (n : Nat)
deriving DecidableEq, Repr

/-! ### Table entries (R109, R118; file 01, Routes) -/

inductive Verdict
  /-- ADMIT -/
  | accept
  | discard
deriving DecidableEq, Repr

inductive Polarity
  | normal
  | inverted
deriving DecidableEq, Repr

inductive TableId
  | admission
  | route
deriving DecidableEq, Repr

/-- What a narrow rule or the head of a wide rule holds. -/
structure Rule where
  active : Bool
  key : NarrowKey
  verdict : Verdict
  feed : Nat
  hits : Nat
deriving DecidableEq, Repr

/-- An ACTIVE route. `current` is the current gain as one number in units of 2^-16 gain. -/
structure Route where
  feed : Nat
  bus : Nat
  polarity : Polarity
  current : Nat
  target : Nat
  remaining : Nat
  step : Int
deriving DecidableEq, Repr

/-- What a slot of a pool bank holds. -/
inductive Slot
  | empty
  | narrow (r : Rule)
  | wideHead (r : Rule)
  | continuation (w : WideKey)
  | route (r : Route)
deriving DecidableEq, Repr

/-- The image of a staging record (R120). -/
inductive Image
  | empty
  | narrow (active : Bool) (key : NarrowKey) (verdict : Verdict) (feed : Nat)
  | wide (active : Bool) (key : NarrowKey) (wide : WideKey) (verdict : Verdict) (feed : Nat)
  | route (feed bus : Nat) (polarity : Polarity) (gain : Nat)
deriving DecidableEq, Repr

/-! ### The block operation (R129) -/

inductive BlockKind
  | move
  | fill
  | scan
  | clearHits
deriving DecidableEq, Repr

inductive StopReason
  | destOccupied
  | occupied
deriving DecidableEq, Repr

inductive ScanMode
  | untilEqual
  | untilDifferent
deriving DecidableEq, Repr

/-- The block state of an operation that exists. STOPPED holds the reason, the blocking index and the slots that blocked the
step, which R138 exempts from the lock. IDLE is the absence of a block. -/
inductive BlockPhase
  | running
  | suspended
  | stopped (reason : StopReason) (index : Nat) (slots : List Nat)
deriving DecidableEq, Repr

/-- The block context while the state is not IDLE. -/
structure Block where
  kind : BlockKind
  table : TableId
  first : Nat
  count : Nat
  offset : Int
  descending : Bool
  image : Image
  selector : Nat
  mode : ScanMode
  next : Nat
  remaining : Nat
  origin : Link
  tag : Nat
  acked : Bool
  phase : BlockPhase
deriving DecidableEq, Repr

/-! ### Cues (R86, R91) -/

/-- The five commands that have a timed form, with their operands as they arrived. -/
inductive CueCommand
  | routeGain (index target length : Nat)
  | busTrim (bus trim : Nat)
  | busMute (bus mute : Nat)
  | busMode (bus mode solo : Nat)
  | closeFeed (feed mode : Nat)
deriving DecidableEq, Repr

/-- A cue record. Its place in the queue is its arrival order. -/
structure Cue where
  time : Time
  command : CueCommand
  tag : Nat
  origin : Link
  acked : Bool
deriving DecidableEq, Repr

/-! ### Classifier (R103, R113) -/

inductive Filter
  | link0
  | link1
  | either
deriving DecidableEq, Repr

structure Window where
  enabled : Bool
  filter : Filter
  base : Nat
  mask : Nat
  translate : Nat
  destination : Link
  hits : Nat
  drops : Nat
deriving DecidableEq, Repr

structure DefaultRule where
  verdict : Verdict
  feed : Nat
  hits : Nat
deriving DecidableEq, Repr

/-! ### Links and control path (R140, R149, R159) -/

structure Counters where
  good : Nat
  badCheck : Nat
  badForm : Nat
  engineStopped : Nat
  discarded : Nat
  stray : Nat
  drained : Nat
  controlDropped : Nat
deriving DecidableEq, Repr

/-- A link interface: UP or DOWN, and the debounce history, oldest first (true is PRESENT). -/
structure LinkState where
  up : Bool
  history : List Bool
  counters : Counters
deriving DecidableEq, Repr

inductive Role
  | full
  | mix
  | none
deriving DecidableEq, Repr

/-! ### Reports (R155, R167, R168) -/

/-- The status codes (file 08, Status codes). -/
inductive Status
  | ok
  | queued
  | late
  | done
  | found
  | notFound
  | abandoned
  | wrongState
  | notPermitted
  | unknownCommand
  | badOperand
  | badIndex
  | badAlignment
  | wrongTable
  | occupied
  | duplicateRoute
  | routeEmpty
  | destOccupied
  | blockRange
  | busy
  | noBlock
  | feedBusy
  | feedClosed
  | noPages
  | noKernel
  | setInUse
  | incomplete
  | dcGain
  | busActive
  | bankTaken
  | queueFull
  | tooLate
  | notCueable
deriving DecidableEq, Repr

/-- The event kinds (file 10, Event kinds). -/
inductive EventKind
  | started
  | engineState
  | link
  | commandRefused
  | cueTargetGone
  | controlDropped
  | blockEnd
  | blockStopped
  | streamConflict
  | rateMismatch
  | gap
  | lateFrame
  | overflow
  | underrun
  | feedClip
  | state
  | resync
  | startLate
  | clip
deriving DecidableEq, Repr

/-- What a report is about: subject kind and number (R155). -/
inductive Subject
  | device
  | link (n : Nat)
  | feed (n : Nat)
  | bus (n : Nat)
  | route (n : Nat)
  | rule (n : Nat)
  | cue
  | block
deriving DecidableEq, Repr

inductive ReportKind
  | reply
  | event
deriving DecidableEq, Repr

/-- One entry of the report queue. -/
structure Report where
  earlierLost : Bool
  kind : ReportKind
  code : Nat
  tag : Nat
  status : Status
  subject : Subject
  time : Time
  words : List Word
deriving DecidableEq, Repr

/-! ### Frames (R151 to R155) -/

/-- A sample frame without its kind byte and check. -/
structure SampleFrame where
  contentClass : Nat
  rateCode : Nat
  stream : Nat
  sequence : Nat
  program : Nat
  language : Nat
  samples : List Sample
deriving DecidableEq, Repr

structure FlowFrame where
  pause : Bool
  stream : Nat
  fill : Nat
  capacity : Nat
deriving DecidableEq, Repr

/-- A bus frame; `rows` holds, for each of the K instants, one sample for each bus of the list. -/
structure BusFrame where
  link : Link
  sequence : Nat
  t0 : Time
  k : Nat
  buses : List Nat
  rows : List (List Sample)
deriving DecidableEq, Repr

/-- A frame an egress sends. -/
inductive EgressFrame
  | bus (f : BusFrame)
  | flow (f : FlowFrame)
  | report (sequence : Nat) (reports : List Report)
  | pass (f : SampleFrame)
deriving DecidableEq, Repr

/-! ### Egress arbiter (R174 to R178) -/

/-- A frame of a pass-through queue, with the window that placed it there (R106). -/
structure PassFrame where
  window : Nat
  frame : SampleFrame
deriving DecidableEq, Repr

/-- A bus frame in assembly (R176). -/
structure Assembly where
  t0 : Time
  buses : List Nat
  rows : List (List Sample)
deriving DecidableEq, Repr

structure Arbiter where
  passCredit : Nat
  reportCredit : Nat
  passQueue : List PassFrame
  flowQueue : List FlowFrame
  busSequence : Nat
  assembly : Option Assembly
  due : Option BusFrame
  sending : Option EgressFrame
deriving DecidableEq, Repr

/-! ### A sample instant that has been begun (R12, R36, R88) -/

/-- How far the work of the instant in progress has come: its first stage is done; buses below `nextBus` have had their second
stage and feeds below `nextFeed` their third, with the outputs y so formed (0 where unlisted); routes below `nextRoute` their
fourth, with the sums so far; buses below `nextMix` their fifth, with the finished samples; links below `nextLink` their sixth. -/
structure InstantWork where
  nextBus : Nat
  nextFeed : Nat
  outputs : List (Nat × Sample)
  nextRoute : Nat
  sums : List (Nat × Int)
  nextMix : Nat
  finished : List (Nat × Sample)
  nextLink : Nat
deriving DecidableEq, Repr

end Sys2Proof.Machine
end

