-- ==== Sys2Proof/Machine/Cells.lean ====
section
/-! DEFINITION. Records kept by number: a list of (number, record) pairs in one canonical form. `d` is what an unlisted number holds. -/

namespace Sys2Proof.Machine

/-- The record at number `i`. -/
def cellGet {α : Type} (d : α) : List (Nat × α) → Nat → α
  | [], _ => d
  | (k, v) :: m, i => if k = i then v else cellGet d m i

/-- The list without number `i`. -/
def cellDrop {α : Type} (m : List (Nat × α)) (i : Nat) : List (Nat × α) :=
  m.filter fun p => p.1 != i

/-- The pair (`i`, `v`) put in its place in a rising list. -/
def cellPlace {α : Type} (i : Nat) (v : α) : List (Nat × α) → List (Nat × α)
  | [] => [(i, v)]
  | (k, w) :: m => if i < k then (i, v) :: (k, w) :: m else (k, w) :: cellPlace i v m

/-- The list with `v` at number `i`; writing what an unlisted number holds removes the entry. -/
def cellSet {α : Type} [DecidableEq α] (d : α) (m : List (Nat × α)) (i : Nat) (v : α) : List (Nat × α) :=
  if v = d then cellDrop m i else cellPlace i v (cellDrop m i)

/-- The canonical form: numbers strictly rising, and no record equal to what an unlisted number holds. -/
abbrev Cells.wf {α : Type} (d : α) (m : List (Nat × α)) : Prop :=
  m.Pairwise (fun p q => p.1 < q.1) ∧ ∀ p ∈ m, p.2 ≠ d

/-- The canonical form of sample memory, whose unlisted words hold 0 (R74). -/
abbrev Memory.wf (m : List (Nat × Sample)) : Prop := Cells.wf 0 m

end Sys2Proof.Machine
end

