-- ==== Sys2Proof/Machine/Initial.lean ====
section
/-! DEFINITION. The value each piece of state holds after STARTING (R2 and the rules it names). -/

namespace Sys2Proof.Machine

/-- A bus record after STARTING (R2, R81). -/
def Bus.initial : Bus :=
  { state := .disabled, mode := .normal, soloFeed := 0, trim := 32768, mute := false, delay := 0, pages := [], index := 0,
    link := none, clipCount := 0, clipFlag := false }

/-- Row `p` of the built-in linear kernel (R28). -/
def linearRow (p : Nat) : List Int :=
  List.replicate 14 0 ++ [32768 - 512 * (p : Int), 512 * (p : Int)]

/-- An EMPTY kernel set (R27); the rows it lists none of read as zeros (log entry 2). -/
def KernelSet.initial : KernelSet := { state := .empty, rows := [], written := 0, inUse := 0 }

/-- Kernel set 0 after STARTING: READY with the linear kernel, every written-row flag set (R27, R28). -/
def KernelSet.linear : KernelSet :=
  { state := .ready, rows := (List.range 65).map fun p => (p, linearRow p), written := BitVec.allOnes 65, inUse := 0 }

/-- A feed context after STARTING (file 03's table, R33, R45). -/
def Feed.initial : Feed :=
  { state := .closed, binding := none, returnLink := .l0, pages := [], readIndex := 0, writeIndex := 0, fill := 0, target := 16,
    start := none, autoFlow := false, hold := false, critical := false, paused := false, parity := false, expected := none,
    overflowCount := 0, underrunCount := 0, gapCount := 0, lateCount := 0, sticky := 0, rateCode := 0, kernel := 0, nominal := 0,
    correction := 0, integrator := 0, step := 0, position := 0, history := List.replicate 16 0, clipCount := 0 }

/-- A pass-through window after STARTING (R103). -/
def Window.initial : Window :=
  { enabled := false, filter := .either, base := 0, mask := 0, translate := 0, destination := .l0, hits := 0, drops := 0 }

/-- A default rule after STARTING (R113). -/
def DefaultRule.initial : DefaultRule := { verdict := .discard, feed := 0, hits := 0 }

def Counters.initial : Counters :=
  { good := 0, badCheck := 0, badForm := 0, engineStopped := 0, discarded := 0, stray := 0, drained := 0, controlDropped := 0 }

/-- A link interface after STARTING: DOWN, with an empty history and zero counters (R140, R149). -/
def LinkState.initial : LinkState := { up := false, history := [], counters := Counters.initial }

/-- An egress arbiter after STARTING (R180). -/
def Arbiter.initial : Arbiter :=
  { passCredit := 0, reportCredit := 0, passQueue := [], flowQueue := [], busSequence := 0, assembly := none, due := none,
    sending := none }

/-- The STARTED event, cause 0 after the reset pin or power-up and 1 after RESET DEVICE (R1). -/
def startedReport (cause : Nat) : Report :=
  { earlierLost := false, kind := .event, code := 1, tag := 0, status := .ok, subject := .device, time := 0,
    words := [BitVec.ofNat 32 cause] }

/-- The work of an instant whose first stage has just been done. -/
def InstantWork.initial : InstantWork :=
  { nextBus := 0, nextFeed := 0, outputs := [], nextRoute := 0, sums := [], nextMix := 0, finished := [], nextLink := 0 }

end Sys2Proof.Machine
end

