-- ==== Sys2Proof/Machine/Flags.lean ====
section
/-! DEFINITION. Saturating counters, sticky flags, saturation of samples, and the numbers that codes and value words give. -/

namespace Sys2Proof.Machine

/-! ### Saturation (file 00, Conventions) -/

/-- `n` raised by `k` in a 16-bit saturating counter. -/
def add16 (n k : Nat) : Nat := min (n + k) Config.max16

/-- `n` raised by one in a 32-bit saturating counter. -/
def inc32 (n : Nat) : Nat := min (n + 1) Config.max32

/-- `x` saturated to 24 bits. -/
def saturate24 (x : Int) : Int := max (-8388608) (min x 8388607)

/-- Whether `x` lies outside 24 bits, so that saturating it is a clipped instant (R25, R42). -/
def clips24 (x : Int) : Bool := decide (x < -8388608 ∨ 8388607 < x)

/-- clamp(x, ±L). -/
def clampAbs (x l : Int) : Int := max (-l) (min x l)

/-! ### Sticky flags (R71, R72) -/

/-- The flag's bit in R72's thirteenth word. -/
def Sticky.bit : Sticky → Nat
  | .streamConflict => 0
  | .rateMismatch => 1
  | .gap => 2
  | .lateFrame => 3
  | .overflow => 4
  | .underrun => 5
  | .feedClip => 6
  | .stateRunning => 7
  | .stateStarved => 8
  | .stateClosed => 9

def Feed.hasSticky (f : Feed) (k : Sticky) : Bool := f.sticky.getLsbD k.bit

def Feed.withSticky (f : Feed) (k : Sticky) : Feed := { f with sticky := f.sticky ||| (1#10 <<< k.bit) }

/-! ### Value words (R155) -/

def wordNat (n : Nat) : Word := BitVec.ofNat 32 n
def wordInt (x : Int) : Word := BitVec.ofInt 32 x
/-- A flag or an on-or-off value: 1 for on, set or yes (log entry 11). -/
def wordBool (b : Bool) : Word := if b then 1 else 0
/-- A value that a rule gives as absent. -/
def wordAbsent : Word := BitVec.allOnes 32
/-- A 48-bit value in two words. -/
def words48 (t : Time) : List Word := [BitVec.ofNat 32 (t.toNat / 4294967296), BitVec.ofNat 32 t.toNat]
/-- A signed value that does not fit 32 bits, as a 48-bit value. -/
def wordsInt48 (x : Int) : List Word := words48 (BitVec.ofInt 48 x)
def wordSample (x : Sample) : Word := wordInt x.toInt
/-- A binding: the link times 65,536 plus the stream number. -/
def wordBinding (l : Link) (stream : Nat) : Word := wordNat (l.num * 65536 + stream)

/-! ### Numbers of states, codes and modes (R155: from 0 in the order first listed) -/

def Engine.num : Engine → Nat
  | .config => 0
  | .run => 1
  | .starting => 0

def HouseRate.hz : HouseRate → Nat
  | .r48000 => 48000
  | .r96000 => 96000

def BusState.num : BusState → Nat
  | .disabled => 0
  | .enabling => 1
  | .enabled => 2
  | .disabling => 3

def BusMode.num : BusMode → Nat
  | .normal => 0
  | .solo => 1
  | .silent => 2

def KernelState.num : KernelState → Nat
  | .empty => 0
  | .loading => 1
  | .ready => 2

def FeedState.num : FeedState → Nat
  | .closed => 0
  | .priming => 1
  | .running => 2
  | .starved => 3
  | .draining => 4

def Verdict.num : Verdict → Nat
  | .accept => 0
  | .discard => 1

def TableId.num : TableId → Nat
  | .admission => 0
  | .route => 1

def BlockKind.num : BlockKind → Nat
  | .move => 0
  | .fill => 1
  | .scan => 2
  | .clearHits => 3

/-- The code of the command that starts an operation of this kind (file 08, Command codes). -/
def BlockKind.code : BlockKind → Nat
  | .move => 0x48
  | .fill => 0x49
  | .scan => 0x4A
  | .clearHits => 0x4B

/-- R129's block state of an operation that exists: RUNNING 1, SUSPENDED 2, STOPPED 3, after IDLE 0. -/
def BlockPhase.num : BlockPhase → Nat
  | .running => 1
  | .suspended => 2
  | .stopped _ _ _ => 3

def StopReason.num : StopReason → Nat
  | .destOccupied => 0
  | .occupied => 1

def StopReason.status : StopReason → Status
  | .destOccupied => .destOccupied
  | .occupied => .occupied

def Filter.num : Filter → Nat
  | .link0 => 0
  | .link1 => 1
  | .either => 2

def Role.num : Role → Nat
  | .full => 0
  | .mix => 1
  | .none => 2

/-- A link state: 0 for UP and 1 for DOWN (R155). -/
def linkStateNum (up : Bool) : Nat := if up then 0 else 1

def Image.kindNum : Image → Nat
  | .empty => 0
  | .narrow _ _ _ _ => 1
  | .wide _ _ _ _ _ => 2
  | .route _ _ _ _ => 3

/-- The status codes (file 08). -/
def Status.code : Status → Nat
  | .ok => 0x00
  | .queued => 0x01
  | .late => 0x02
  | .done => 0x03
  | .found => 0x04
  | .notFound => 0x05
  | .abandoned => 0x06
  | .wrongState => 0x10
  | .notPermitted => 0x11
  | .unknownCommand => 0x12
  | .badOperand => 0x13
  | .badIndex => 0x14
  | .badAlignment => 0x15
  | .wrongTable => 0x16
  | .occupied => 0x17
  | .duplicateRoute => 0x18
  | .routeEmpty => 0x19
  | .destOccupied => 0x1A
  | .blockRange => 0x1B
  | .busy => 0x1C
  | .noBlock => 0x1D
  | .feedBusy => 0x1E
  | .feedClosed => 0x1F
  | .noPages => 0x20
  | .noKernel => 0x21
  | .setInUse => 0x22
  | .incomplete => 0x23
  | .dcGain => 0x24
  | .busActive => 0x25
  | .bankTaken => 0x26
  | .queueFull => 0x27
  | .tooLate => 0x28
  | .notCueable => 0x29

/-- The event codes (file 08). -/
def EventKind.code : EventKind → Nat
  | .started => 0x01
  | .engineState => 0x02
  | .link => 0x03
  | .commandRefused => 0x04
  | .cueTargetGone => 0x05
  | .controlDropped => 0x06
  | .blockEnd => 0x07
  | .blockStopped => 0x08
  | .streamConflict => 0x09
  | .rateMismatch => 0x0A
  | .gap => 0x0B
  | .lateFrame => 0x0C
  | .overflow => 0x0D
  | .underrun => 0x0F
  | .feedClip => 0x10
  | .state => 0x11
  | .resync => 0x12
  | .startLate => 0x13
  | .clip => 0x14

/-- Subject kind and number in a report's head (R155). -/
def Subject.kindNum : Subject → Nat
  | .device => 0
  | .link _ => 1
  | .feed _ => 2
  | .bus _ => 3
  | .route _ => 4
  | .rule _ => 5
  | .cue => 6
  | .block => 7

def Subject.number : Subject → Nat
  | .link n | .feed n | .bus n | .route n | .rule n => n
  | .device | .cue | .block => 0

end Sys2Proof.Machine
end

