-- ==== Sys2Proof/Machine/Operands.lean ====
section
/-! DEFINITION. The operand forms of R152: on-or-off operands, enumerated operands (numbered from 1 in the order first listed) and links; none is an operand the command refuses. -/

namespace Sys2Proof.Machine

/-- 1 for on, set or yes and 0 for off, clear or no. -/
def onOff? : Nat → Option Bool
  | 0 => some false
  | 1 => some true
  | _ => none

def houseRate? (n : Nat) : Option HouseRate :=
  if n = 48000 then some .r48000 else if n = 96000 then some .r96000 else none

/-- NORMAL, SOLO, SILENT (R20). -/
def busMode? : Nat → Option BusMode
  | 1 => some .normal
  | 2 => some .solo
  | 3 => some .silent
  | _ => none

/-- A bus's egress link: 0, 1, or 255 for none (R22). -/
def busLink? (n : Nat) : Option (Option Link) :=
  if n = 255 then some none else (Link.ofNat? n).map some

inductive CloseMode
  | immediate
  | drain
deriving DecidableEq, Repr

/-- IMMEDIATE, DRAIN (R53). -/
def closeMode? : Nat → Option CloseMode
  | 1 => some .immediate
  | 2 => some .drain
  | _ => none

inductive FeedPart
  | status
  | history
deriving DecidableEq, Repr

/-- STATUS, HISTORY (R72). -/
def feedPart? : Nat → Option FeedPart
  | 1 => some .status
  | 2 => some .history
  | _ => none

inductive PoolPart
  | summary
  | feeds
  | buses
  | feedPages
  | busPages
  | page
deriving DecidableEq, Repr

/-- SUMMARY, FEEDS, BUSES, FEED PAGES, BUS PAGES, PAGE (R83). -/
def poolPart? : Nat → Option PoolPart
  | 1 => some .summary
  | 2 => some .feeds
  | 3 => some .buses
  | 4 => some .feedPages
  | 5 => some .busPages
  | 6 => some .page
  | _ => none

/-- LINK 0, LINK 1, EITHER (R103). -/
def filter? : Nat → Option Filter
  | 1 => some .link0
  | 2 => some .link1
  | 3 => some .either
  | _ => none

/-- ADMIT, DISCARD (R113). -/
def verdict? : Nat → Option Verdict
  | 1 => some .accept
  | 2 => some .discard
  | _ => none

/-- ADMISSION, ROUTE (R118). -/
def table? : Nat → Option TableId
  | 1 => some .admission
  | 2 => some .route
  | _ => none

/-- ACTIVE, DISABLED (R120); true is ACTIVE. -/
def ruleState? : Nat → Option Bool
  | 1 => some true
  | 2 => some false
  | _ => none

/-- NORMAL, INVERTED (R122). -/
def polarity? : Nat → Option Polarity
  | 1 => some .normal
  | 2 => some .inverted
  | _ => none

/-- UNTIL_EQUAL, UNTIL_DIFFERENT (R134). -/
def scanMode? : Nat → Option ScanMode
  | 1 => some .untilEqual
  | 2 => some .untilDifferent
  | _ => none

/-- FULL, MIX, NONE (R159). -/
def role? : Nat → Option Role
  | 1 => some .full
  | 2 => some .mix
  | 3 => some .none
  | _ => none

/-- Key values and care masks lie within their fields' widths (R110, R121). -/
def narrowKeyFits (k : NarrowKey) : Bool :=
  decide (k.linkV < 2 ∧ k.linkC < 2 ∧ k.streamV < 4096 ∧ k.streamC < 4096 ∧ k.classV < 16 ∧ k.classC < 16)

def wideKeyFits (k : WideKey) : Bool :=
  decide (k.programV < 256 ∧ k.programC < 256 ∧ k.languageV < 256 ∧ k.languageC < 256 ∧ k.rateV < 4 ∧ k.rateC < 4)

end Sys2Proof.Machine
end

