-- ==== Sys2Proof/Machine/State.lean ====
section
/-! DEFINITION. State: everything the manual gives the device, as plain data, and the queue of commands waiting to be taken. Fault, Refusal and State.reset. -/

namespace Sys2Proof.Machine

/-- Why the device could stop. The manual names nothing that stops it: every malformed frame, refused command and lost event
has an effect of its own. So there is no constructor, and no step faults (safe: nothing is claimed of a stop). -/
inductive Fault
deriving DecidableEq, Repr

/-- Why the model could have no meaning for a command. -/
inductive Refusal
  /-- Raised by an arm of `exec` whose command has no meaning yet. No arm raises it now. Safe: the machine stops. -/
  | notModelled (mnemonic : String)
deriving DecidableEq, Repr

/-- The whole device. Records kept by number (buses, feeds, kernel sets, page owners, windows, slots, memory words) are lists of
(number, record) pairs in the canonical form of `Cells.wf`: numbers rising, and no record equal to what an unlisted number
holds, which is its value after STARTING. -/
structure State where
  /-- the RSTN pin is low -/
  rstnLow : Bool
  /-- engine state (R1) -/
  engine : Engine
  /-- what the STARTED event of the STARTING in progress will give: 0 or 1 (R1) -/
  cause : Nat
  /-- house time (R8) -/
  houseTime : Time
  /-- the configured house rate (R9) -/
  houseRate : HouseRate
  /-- K of each link (R11) -/
  framing : PerLink Nat
  /-- the sample instant begun and not finished (R12) -/
  instant : Option InstantWork
  /-- bus records (unlisted: `Bus.initial`) -/
  buses : List (Nat × Bus)
  /-- kernel sets (unlisted: `KernelSet.initial`) -/
  kernels : List (Nat × KernelSet)
  /-- feed contexts (unlisted: `Feed.initial`) -/
  feeds : List (Nat × Feed)
  /-- page owner records (unlisted: FREE; R74) -/
  owners : List (Nat × Owner)
  /-- the free list, front first (R74) -/
  freeList : List Nat
  /-- sample memory by word address, page x 256 + word (unlisted: 0; R74) -/
  memory : List (Nat × Sample)
  /-- the cue queue, front first (R91) -/
  cues : List Cue
  /-- late tolerance (R93) -/
  lateTolerance : Nat
  /-- pass-through windows (unlisted: `Window.initial`) -/
  windows : List (Nat × Window)
  /-- default rules (R113) -/
  defaults : PerLink DefaultRule
  /-- assignment list of ADMISSION (R118) -/
  admissionBanks : List Nat
  /-- assignment list of ROUTE (R118) -/
  routeBanks : List Nat
  /-- pool bank slots by bank x 128 + slot (unlisted: EMPTY; R118) -/
  slots : List (Nat × Slot)
  /-- staging records (R120) -/
  staging : PerLink Image
  /-- the block context; none is IDLE (R129) -/
  block : Option Block
  /-- link interfaces (R140, R149) -/
  links : PerLink LinkState
  /-- control FIFOs: each frame is the list of its commands not yet taken (R156) -/
  fifos : PerLink (List (List Instr))
  /-- link roles (R159) -/
  roles : PerLink Role
  /-- the report queue, oldest first (R168) -/
  reports : List Report
  /-- the place held for a block operation's reply (R139, R168) -/
  heldPlace : Bool
  /-- the lost-events marker (R170) -/
  lostMarker : Bool
  /-- the report link (R161) -/
  reportLink : Link
  /-- the report-frame sequence (R173) -/
  reportSequence : Nat
  /-- egress arbiters (R174 to R178) -/
  arbiters : PerLink Arbiter
  /-- the MODEL's own field: commands waiting to be taken, first in, first out -/
  pending : List Instr
deriving DecidableEq, Repr

/-- The device after STARTING, as R2 gives it for the reset pin, with nothing waiting. -/
def State.reset : State :=
  { rstnLow := false, engine := .config, cause := 0, houseTime := 0, houseRate := .r48000, framing := PerLink.both 8,
    instant := none, buses := [], kernels := [(0, KernelSet.linear)], feeds := [], owners := [], freeList := List.range 512,
    memory := [], cues := [], lateTolerance := 480, windows := [], defaults := PerLink.both DefaultRule.initial,
    admissionBanks := [], routeBanks := [], slots := [], staging := PerLink.both Image.empty, block := none,
    links := PerLink.both LinkState.initial, fifos := PerLink.both [], roles := { zero := .full, one := .none },
    reports := [startedReport 0], heldPlace := false, lostMarker := false, reportLink := .l0, reportSequence := 0,
    arbiters := PerLink.both Arbiter.initial, pending := [] }

end Sys2Proof.Machine
end

