-- ==== Sys2Proof/Machine/Ops.lean ====
section
/-! DEFINITION. The named operations over State that every block shares: records by number, sample memory, the page pool, the report unit, answers to commands, and flow frames. -/

namespace Sys2Proof.Machine

/-! ### Records by number -/

def State.bus (s : State) (b : Nat) : Bus := cellGet Bus.initial s.buses b
def State.setBus (s : State) (b : Nat) (x : Bus) : State := { s with buses := cellSet Bus.initial s.buses b x }

def State.kernel (s : State) (k : Nat) : KernelSet := cellGet KernelSet.initial s.kernels k
def State.setKernel (s : State) (k : Nat) (x : KernelSet) : State :=
  { s with kernels := cellSet KernelSet.initial s.kernels k x }

def State.feed (s : State) (f : Nat) : Feed := cellGet Feed.initial s.feeds f
def State.setFeed (s : State) (f : Nat) (x : Feed) : State := { s with feeds := cellSet Feed.initial s.feeds f x }

def State.owner (s : State) (p : Nat) : Owner := cellGet .free s.owners p
def State.setOwner (s : State) (p : Nat) (x : Owner) : State := { s with owners := cellSet .free s.owners p x }

def State.window (s : State) (w : Nat) : Window := cellGet Window.initial s.windows w
def State.setWindow (s : State) (w : Nat) (x : Window) : State :=
  { s with windows := cellSet Window.initial s.windows w x }

def State.slot (s : State) (k : Nat) : Slot := cellGet .empty s.slots k
def State.setSlot (s : State) (k : Nat) (x : Slot) : State := { s with slots := cellSet .empty s.slots k x }

/-- The word of sample memory at address `a`. -/
def State.word (s : State) (a : Nat) : Sample := cellGet 0 s.memory a
def State.setWord (s : State) (a : Nat) (x : Sample) : State := { s with memory := cellSet 0 s.memory a x }

def State.arb (s : State) (l : Link) : Arbiter := s.arbiters.get l
def State.setArb (s : State) (l : Link) (a : Arbiter) : State := { s with arbiters := s.arbiters.set l a }

def State.linkUp (s : State) (l : Link) : Bool := (s.links.get l).up

/-- Link `l`'s counters changed by `f` (R149). -/
def State.count (s : State) (l : Link) (f : Counters → Counters) : State :=
  { s with links := s.links.set l { s.links.get l with counters := f (s.links.get l).counters } }

/-! ### Pages (R80, R81) -/

/-- The word address of position `q` of a buffer or delay line whose pages are `pages`. -/
def pageAddress (pages : List Nat) (q : Nat) : Nat :=
  pages.getD (q / Config.pageWords) 0 * Config.pageWords + q % Config.pageWords

/-- A feed's capacity: its page count times 256 (R46). -/
def Feed.capacity (f : Feed) : Nat := f.pages.length * Config.pageWords

/-- ceil(d / 256) (R21). -/
def pagesFor (d : Nat) : Nat := (d + 255) / 256

/-- The first `n` pages of the free list lent to `o` (R75, R76): the caller has checked that there are `n`. -/
def State.takePages (s : State) (o : Owner) (n : Nat) : State :=
  (s.freeList.take n).foldl (fun t p => t.setOwner p o) { s with freeList := s.freeList.drop n }

/-- The pages returned to the back of the free list in the order given (R75, R77). -/
def State.returnPages (s : State) (ps : List Nat) : State :=
  ps.foldl (fun t p => t.setOwner p .free) { s with freeList := s.freeList ++ ps }

/-- Whether address `a` is one of the positions 0 to `d` - 1 of a delay line in `pages` (R81). -/
def inLine (pages : List Nat) (d a : Nat) : Bool :=
  (List.range pages.length).any fun e =>
    pages.getD e 0 == a / Config.pageWords && decide (e * Config.pageWords + a % Config.pageWords < d)

/-- A delay-line clear: 0 in every position of the line (R82). A word that holds 0 is unlisted. -/
def State.clearWords (s : State) (pages : List Nat) (d : Nat) : State :=
  { s with memory := s.memory.filter fun p => !inLine pages d p.1 }

/-- The delay-line clear of bus `b`: zeros in its positions, and delay index 0 (R82). -/
def State.clearLine (s : State) (b : Nat) : State :=
  (s.clearWords (s.bus b).pages (s.bus b).delay).setBus b { s.bus b with index := 0 }

/-! ### The report unit (R168 to R171) -/

/-- The queue's entry count: its reports and a held place. -/
def State.entryCount (s : State) : Nat := s.reports.length + (if s.heldPlace then 1 else 0)

/-- A report at the back of the queue, with the house time of its entry (R155). -/
def State.pushReport (s : State) (r : Report) : State := { s with reports := s.reports ++ [{ r with time := s.houseTime }] }

/-- An event offered to the report unit (R170): it enters below 56 entries, with the earlier-lost flag if the marker is set;
otherwise it is lost and the marker is set. -/
def State.offer (s : State) (r : Report) : State :=
  if s.entryCount < Config.eventLimit then
    { s.pushReport { r with earlierLost := s.lostMarker } with lostMarker := false }
  else { s with lostMarker := true }

/-- An event of kind `k`, tag `tag` and status `st` (R171). -/
def State.event (s : State) (k : EventKind) (tag : Nat) (st : Status) (subject : Subject) (words : List Word) : State :=
  s.offer { earlierLost := false, kind := .event, code := k.code, tag := tag, status := st, subject := subject, time := 0,
            words := words }

/-- An event that carries no tag and no status (R171). -/
def State.plainEvent (s : State) (k : EventKind) (subject : Subject) (words : List Word) : State :=
  s.event k 0 .ok subject words

/-! ### Answers (R162) -/

/-- What an answer needs of the command answered: its link, acknowledged flag, tag, code and subject. -/
structure Ask where
  link : Link
  acked : Bool
  tag : Nat
  code : Nat
  subject : Subject
deriving DecidableEq, Repr

/-- The reply to an acknowledged command. -/
def Ask.report (a : Ask) (st : Status) (words : List Word) : Report :=
  { earlierLost := false, kind := .reply, code := a.code, tag := a.tag, status := st, subject := a.subject, time := 0,
    words := words }

/-- A command carried out or queued: a reply if it is acknowledged, and no report if it is posted. -/
def State.reply (s : State) (a : Ask) (st : Status) (words : List Word) : State :=
  if a.acked then s.pushReport (a.report st words) else s

/-- A command refused: a reply if it is acknowledged, and a COMMAND_REFUSED event if it is posted. -/
def State.refuse (s : State) (a : Ask) (st : Status) (words : List Word) : State :=
  if a.acked then s.pushReport (a.report st words)
  else s.event .commandRefused a.tag st a.subject (wordNat a.code :: words)

/-! ### Flow frames (R68, R177) -/

/-- The flow queue `q` (16 frames waiting) without the oldest frame of stream `st`; none where no frame of it waits. -/
def dropOldestOf (st : Nat) : List FlowFrame → Option (List FlowFrame)
  | [] => none
  | f :: q => if f.stream = st then some q else (dropOldestOf st q).map (f :: ·)

/-- A flow frame handed to the egress arbiter of link `l` (R177). -/
def State.handFlow (s : State) (l : Link) (f : FlowFrame) : State :=
  if s.linkUp l then
    let a := s.arb l
    if a.flowQueue.length < Config.flowCapacity then s.setArb l { a with flowQueue := a.flowQueue ++ [f] }
    else match dropOldestOf f.stream a.flowQueue with
      | some q => s.setArb l { a with flowQueue := q ++ [f] }
      | none => s.count l fun c => { c with controlDropped := inc32 c.controlDropped }
  else s

/-- A flow frame of feed `n`, formed only if the feed is bound (R68). -/
def State.sendFlow (s : State) (n : Nat) (pause : Bool) : State :=
  let f := s.feed n
  match f.binding with
  | some (_, stream) =>
    s.handFlow f.returnLink { pause := pause, stream := stream, fill := f.fill, capacity := f.capacity }
  | none => s

/-! ### Sticky events of a feed (R71) -/

/-- Feed `n` raises an event under its sticky flag: with the flag clear the event is offered and the flag set; with it set
nothing is raised. -/
def State.stickyEvent (s : State) (n : Nat) (k : Sticky) (e : EventKind) (words : List Word) : State :=
  if (s.feed n).hasSticky k then s
  else (s.plainEvent e (.feed n) words).setFeed n ((s.feed n).withSticky k)

end Sys2Proof.Machine
end

