-- ==== Sys2Proof/Machine/Arbiter.lean ====
section
/-! DEFINITION. The egress arbiter of each link (file 10): bus-frame assembly, the choice of the next frame, credits, and what link loss does. -/

namespace Sys2Proof.Machine

/-- Whether a bus forms samples: ENABLED or DISABLING (file 01, Buses). -/
def Bus.inMix (b : Bus) : Bool := decide (b.state = .enabled ∨ b.state = .disabling)

/-- The buses in the mix whose egress link is `l`, ascending (R176). -/
def State.busList (s : State) (l : Link) : List Nat :=
  (List.range Config.buses).filter fun b => (s.bus b).inMix && decide ((s.bus b).link = some l)

/-- A complete assembly becomes a bus frame, with the sequence raised: due on an UP link, where it replaces one that still waits,
and discarded on a DOWN one. An empty list makes no frame (R176). -/
def Arbiter.complete (a : Arbiter) (up : Bool) (l : Link) (k : Nat) (asm : Assembly) : Arbiter :=
  if asm.buses = [] then { a with assembly := none }
  else
    { a with
      assembly := none
      busSequence := (a.busSequence + 1) % 65536
      due := if up then
          some { link := l, sequence := a.busSequence, t0 := asm.t0, k := k, buses := asm.buses, rows := asm.rows }
        else a.due }

/-- The samples of one instant handed to an assembly: one for each bus of its list. -/
def Assembly.take (asm : Assembly) (finished : List (Nat × Sample)) : Assembly :=
  { asm with rows := asm.rows ++ [asm.buses.map (cellGet 0 finished)] }

/-- Link `l`'s assembly at this instant: a new one at a multiple of K, with the bus list of the instant (R176). -/
def State.begunAssembly (s : State) (l : Link) : Option Assembly :=
  if s.houseTime.toNat % s.framing.get l = 0 then some { t0 := s.houseTime, buses := s.busList l, rows := [] }
  else (s.arb l).assembly

/-- The sixth stage for link `l` (R26, R176): the instant's samples join the assembly, and after K instants the frame is
complete. -/
def State.handLink (s : State) (l : Link) (finished : List (Nat × Sample)) : State :=
  match s.begunAssembly l with
  | none => s
  | some asm =>
    let asm' := asm.take finished
    if asm'.rows.length = s.framing.get l then
      s.setArb l ((s.arb l).complete (s.linkUp l) l (s.framing.get l) asm')
    else s.setArb l { s.arb l with assembly := some asm' }

/-! ### Choosing and forming a frame (R172, R173, R175, R178) -/

/-- A report frame formed on link `l`: the oldest reports, up to 8, leave the queue; one REPORT credit is taken and the
report-frame sequence rises. -/
def State.formReport (s : State) (l : Link) : State :=
  let a := s.arb l
  ({ s with reports := s.reports.drop Config.reportsPerFrame, reportSequence := (s.reportSequence + 1) % 65536 }).setArb l
    { a with
      reportCredit := a.reportCredit - 1
      sending := some (.report s.reportSequence (s.reports.take Config.reportsPerFrame)) }

/-- Whether link `l` may send a report frame. -/
def State.reportReady (s : State) (l : Link) : Bool :=
  decide (s.reportLink = l) && decide (1 ≤ (s.arb l).reportCredit) && !s.reports.isEmpty

/-- The arbiter of link `l` chooses: on an UP link whose egress is free, the first ready class of BUS, FLOW, REPORT, PASS. -/
def State.choose (s : State) (l : Link) : State :=
  let a := s.arb l
  if s.linkUp l && a.sending.isNone then
    match a.due with
    | some f => s.setArb l { a with due := none, sending := some (.bus f) }
    | none =>
      match a.flowQueue with
      | f :: q => s.setArb l { a with flowQueue := q, sending := some (.flow f) }
      | [] =>
        if s.reportReady l then s.formReport l
        else
          match a.passQueue with
          | p :: q =>
            if 1 ≤ a.passCredit then
              s.setArb l { a with passQueue := q, passCredit := a.passCredit - 1, sending := some (.pass p.frame) }
            else s
          | [] => s
  else s

/-- What ends every step: an idle egress starts the frame that the step has made ready (R175, log entry 5). -/
def State.settle (s : State) : State := (s.choose .l0).choose .l1

/-- The frame link `l` was sending has left, and its egress is free (R175). -/
def State.frameLeft (s : State) (l : Link) : State := s.setArb l { s.arb l with sending := none }

/-! ### Credits and link loss (R142, R174) -/

/-- A credit frame: class 1 PASS or 2 REPORT, mode 1 ADD or 2 SET. -/
def Arbiter.credit (a : Arbiter) (cls mode n : Nat) : Arbiter :=
  let f := fun c => if mode = 1 then min (c + n) 255 else n
  if cls = 1 then { a with passCredit := f a.passCredit } else { a with reportCredit := f a.reportCredit }

/-- The window that placed a pass-through frame counts its loss (R106). -/
def State.dropPass (s : State) (w : Nat) : State := s.setWindow w { s.window w with drops := inc32 (s.window w).drops }

/-- What a link going DOWN does to its egress (R142): credits 0, pass-through queue emptied and counted against the windows,
flow queue emptied, the frame being sent cut off; a due bus frame is discarded (R176, log entry 6). -/
def State.egressDown (s : State) (l : Link) : State :=
  let a := s.arb l
  a.passQueue.foldl (fun t p => t.dropPass p.window)
    (s.setArb l
      { a with passCredit := 0, reportCredit := 0, passQueue := [], flowQueue := [], due := none, sending := none })

/-- A forwarded frame handed to the pass-through queue of link `l` by window `w` (R105). -/
def State.forward (s : State) (l : Link) (w : Nat) (fr : SampleFrame) : State :=
  let a := s.arb l
  if s.linkUp l && decide (a.passQueue.length < Config.passCapacity) then
    s.setArb l { a with passQueue := a.passQueue ++ [{ window := w, frame := fr }] }
  else s.dropPass w

end Sys2Proof.Machine
end

