-- ==== Sys2Proof/Machine/Feed.lean ====
section
/-! DEFINITION. The feed unit (file 03): buffers, flow control, opening and closing, admitted frames, start conditions. -/

namespace Sys2Proof.Machine

/-! ### Nominal step (R34) and target clamp (R49) -/

/-- Input rate of a rate code (file 02). -/
def inputRate : Nat → Nat
  | 0 => 44100
  | 1 => 48000
  | 2 => 88200
  | _ => 96000

/-- N = round(2^24 × input rate / house rate), halves up (R34). -/
def nominalStep (rateCode : Nat) (house : HouseRate) : Nat :=
  (2 * 16777216 * inputRate rateCode + house.hz) / (2 * house.hz)

/-- L = floor(N / 1,024) (R34). -/
def correctionLimit (nominal : Nat) : Nat := nominal / 1024

/-- A target fill clamped to 16 to floor(3 × capacity / 4) − 1 (R49). -/
def clampTarget (capacity target : Nat) : Nat := max 16 (min target (3 * capacity / 4 - 1))

/-! ### The ring buffer (R46, R80) -/

/-- One sample written at the write index. -/
def State.writeSample (s : State) (n : Nat) (x : Sample) : State :=
  let f := s.feed n
  (s.setWord (pageAddress f.pages f.writeIndex) x).setFeed n
    { f with writeIndex := (f.writeIndex + 1) % f.capacity, fill := f.fill + 1 }

def State.writeSamples (s : State) (n : Nat) (xs : List Sample) : State :=
  xs.foldl (fun t x => t.writeSample n x) s

/-- The history with `x` as its newest sample (R39). -/
def pushHistory (h : List Sample) (x : Sample) : List Sample := h.drop 1 ++ [x]

/-- A history of sixteen zeros. -/
def zeroHistory : List Sample := List.replicate 16 0

/-- One sample consumed from the read index into the history (R39, R46). -/
def State.consumeSample (s : State) (n : Nat) : State :=
  let f := s.feed n
  s.setFeed n
    { f with
      readIndex := (f.readIndex + 1) % f.capacity
      fill := f.fill - 1
      history := pushHistory f.history (s.word (pageAddress f.pages f.readIndex)) }

def State.consumeSamples (s : State) (n : Nat) : (k : Nat) → State
  | 0 => s
  | k + 1 => (s.consumeSample n).consumeSamples n k

/-! ### Flow checks (R63 to R65) -/

/-- The arrival flow check. -/
def State.arrivalFlow (s : State) (n : Nat) : State :=
  let f := s.feed n
  let crit := f.critical || decide (3 * f.capacity / 4 ≤ f.fill)
  let g := { f with critical := crit }
  if f.hold || (f.autoFlow && crit) then
    if !f.paused then (s.sendFlow n true).setFeed n { g with paused := true, parity := false }
    else if !f.parity then s.setFeed n { g with parity := true }
    else (s.sendFlow n true).setFeed n { g with parity := false }
  else s.setFeed n g

/-- The consumption flow check. -/
def State.consumptionFlow (s : State) (n : Nat) : State :=
  let f := s.feed n
  let crit := f.critical && decide (f.capacity / 2 ≤ f.fill)
  let g := { f with critical := crit }
  if f.paused && f.autoFlow && !f.hold && !crit then (s.sendFlow n false).setFeed n { g with paused := false }
  else s.setFeed n g

/-! ### In-use counts (R32) -/

def State.raiseInUse (s : State) (k : Nat) : State := s.setKernel k { s.kernel k with inUse := (s.kernel k).inUse + 1 }
def State.lowerInUse (s : State) (k : Nat) : State := s.setKernel k { s.kernel k with inUse := (s.kernel k).inUse - 1 }

/-! ### Opening and closing -/

/-- The effects of an immediate close (R53), with the fields R56 keeps. -/
def State.closeFeed (s : State) (n : Nat) : State :=
  let f := s.feed n
  ((s.returnPages f.pages).lowerInUse f.kernel).setFeed n
    { f with
      state := .closed, pages := [], readIndex := 0, writeIndex := 0, fill := 0, binding := none, expected := none,
      start := none, critical := false, parity := false }

/-- A STATE event of feed `n` under its state's sticky flag, with the feed's fill (R71). -/
def State.stateEvent (s : State) (n : Nat) (k : Sticky) (st : FeedState) : State :=
  s.stickyEvent n k .state [wordNat st.num, wordNat (s.feed n).fill]

/-- CLOSE FEED with mode DRAIN on an open feed (R54), less the STATE event of a drain that ends at once. -/
def State.drainFeed (s : State) (n : Nat) : State :=
  let f := s.feed n
  if f.state = .draining then s
  else if f.fill = 0 then s.closeFeed n
  else s.setFeed n { f with state := .draining, start := none }

/-- The STATE event of a DRAIN that ended at once (R54, R55): `before` is the state in which the command found the feed. -/
def State.drainEvent (s : State) (n : Nat) (before : FeedState) : State :=
  if before ≠ .draining ∧ (s.feed n).state = .closed then s.stateEvent n .stateClosed .closed else s

/-- OPEN FEED that has passed its checks (R35, R49). -/
def State.openFeed (s : State) (n rate set pages target : Nat) (auto : Bool) (ret : Link) (start : Option Time) : State :=
  let nom := nominalStep rate s.houseRate
  ((s.takePages (.feed n) pages).raiseInUse set).setFeed n
    { state := .priming, binding := none, returnLink := ret, pages := s.freeList.take pages, readIndex := 0, writeIndex := 0,
      fill := 0, target := clampTarget (pages * Config.pageWords) target, start := start, autoFlow := auto, hold := false,
      critical := false, paused := false, parity := false, expected := none, overflowCount := 0, underrunCount := 0,
      gapCount := 0, lateCount := 0, sticky := 0, rateCode := rate, kernel := set, nominal := nom, correction := 0,
      integrator := 0, step := nom, position := 0, history := zeroHistory, clipCount := 0 }

/-! ### Admitted frames (R57 to R62) -/

/-- R62: the frame is written if it fits, and discarded for overflow otherwise; then the arrival flow check. -/
def State.takeFrame (s : State) (l : Link) (fr : SampleFrame) (n : Nat) : State :=
  let f := s.feed n
  let next := some ((fr.sequence + 1) % 65536)
  if fr.samples.length ≤ f.capacity - f.fill then
    let s1 := s.writeSamples n fr.samples
    let g := s1.feed n
    (s1.setFeed n { g with binding := g.binding.or (some (l, fr.stream)), expected := next }).arrivalFlow n
  else
    let s1 := s.setFeed n { f with overflowCount := add16 f.overflowCount 1, expected := next }
    (s1.stickyEvent n .overflow .overflow [wordNat fr.samples.length, wordNat f.fill]).arrivalFlow n

/-- A short gap of `d` frames concealed (R59). -/
def State.conceal (s : State) (fr : SampleFrame) (n d : Nat) : State :=
  let f := s.feed n
  let s1 := s.writeSamples n (List.replicate (min (d * fr.samples.length) (f.capacity - f.fill)) 0)
  let g := s1.feed n
  (s1.setFeed n { g with gapCount := add16 g.gapCount d }).stickyEvent n .gap .gap [wordNat d]

/-- RESYNC at distance `d` (R60, R35). -/
def State.resync (s : State) (n d : Nat) : State :=
  let f := s.feed n
  let s1 := s.setFeed n
    { f with
      state := .priming, readIndex := f.writeIndex, fill := 0, history := zeroHistory, position := 0, correction := 0,
      integrator := 0, step := f.nominal }
  (s1.consumptionFlow n).plainEvent .resync (.feed n) [wordNat d, wordNat f.state.num]

/-- A late or duplicated frame (R61). -/
def State.lateFrame (s : State) (fr : SampleFrame) (n expected : Nat) : State :=
  let f := s.feed n
  (s.setFeed n { f with lateCount := add16 f.lateCount 1 }).stickyEvent n .lateFrame .lateFrame
    [wordNat fr.sequence, wordNat expected]

/-- The distance of a frame from the expected sequence (R59). -/
def sequenceDistance (sequence expected : Nat) : Nat := (sequence + (65536 - expected % 65536)) % 65536

/-- R59: the sequence check. -/
def State.sequenceCheck (s : State) (l : Link) (fr : SampleFrame) (n : Nat) : State :=
  match (s.feed n).expected with
  | none => s.takeFrame l fr n
  | some e =>
    let d := sequenceDistance fr.sequence e
    if d = 0 then s.takeFrame l fr n
    else if d ≤ 8 then (s.conceal fr n d).takeFrame l fr n
    else if d ≤ 32767 then (s.resync n d).takeFrame l fr n
    else s.lateFrame fr n e

/-- One arrival on feed `n` of a frame from link `l` (R57 to R62). -/
def State.arrive (s : State) (l : Link) (fr : SampleFrame) (n : Nat) : State :=
  let f := s.feed n
  let stray := s.count l fun c => { c with stray := inc32 c.stray }
  if f.state = .closed then stray
  else if f.binding.isSome ∧ f.binding ≠ some (l, fr.stream) then
    stray.stickyEvent n .streamConflict .streamConflict [wordBinding l fr.stream]
  else if f.state = .draining then s.count l fun c => { c with drained := inc32 c.drained }
  else if fr.rateCode ≠ f.rateCode then s.stickyEvent n .rateMismatch .rateMismatch [wordNat fr.rateCode]
  else s.sequenceCheck l fr n

/-! ### Start conditions (R51, R52) -/

/-- The start evaluation of feed `n` at the instant in progress. -/
def State.startEval (s : State) (n : Nat) : State :=
  let f := s.feed n
  match f.state with
  | .priming =>
    if f.target ≤ f.fill then
      match f.start with
      | none => (s.setFeed n { f with state := .running }).stateEvent n .stateRunning .running
      | some t =>
        if t ≤ s.houseTime then
          let s1 := s.setFeed n { f with state := .running, start := none }
          let s2 := if t < s.houseTime then s1.plainEvent .startLate (.feed n) (words48 (s.houseTime - t)) else s1
          s2.stateEvent n .stateRunning .running
        else s
    else s
  | .starved =>
    if f.target ≤ f.fill then (s.setFeed n { f with state := .running }).stateEvent n .stateRunning .running else s
  | .closed | .running | .draining => s

/-! ### Value words of READ FEED (R72) -/

def wordOptNat : Option Nat → Word
  | some n => wordNat n
  | none => wordAbsent

def wordsOptTime : Option Time → List Word
  | some t => words48 t
  | none => [wordAbsent, wordAbsent]

/-- The 24 value words of part STATUS. -/
def Feed.statusWords (f : Feed) : List Word :=
  [wordNat f.state.num, (match f.binding with | some (l, st) => wordBinding l st | none => wordAbsent), wordNat f.returnLink.num,
    wordNat f.pages.length, wordNat f.fill, wordNat f.readIndex, wordNat f.writeIndex, wordNat f.target] ++
  wordsOptTime f.start ++
  [wordNat (f.autoFlow.toNat + 2 * f.hold.toNat + 4 * f.critical.toNat + 8 * f.paused.toNat + 16 * f.parity.toNat),
    wordOptNat f.expected, f.sticky.zeroExtend 32, wordNat f.overflowCount, wordNat f.underrunCount, wordNat f.gapCount,
    wordNat f.lateCount, wordNat f.clipCount, wordNat (f.rateCode + 4 * f.kernel), wordNat f.nominal, wordInt f.correction,
    wordInt f.integrator, wordInt f.step, wordNat f.position]

end Sys2Proof.Machine
end

