-- ==== Sys2Proof/Machine/Table.lean ====
section
/-! DEFINITION. The index spaces of the two tables over the pool banks (file 07), the rules and routes in them, and the ranges of the block operation. -/

namespace Sys2Proof.Machine

/-! ### Index spaces (R118) -/

/-- The assignment list of a table. -/
def State.banksOf (s : State) : TableId → List Nat
  | .admission => s.admissionBanks
  | .route => s.routeBanks

def State.tableSize (s : State) (t : TableId) : Nat := (s.banksOf t).length * Config.bankSlots

/-- The pool slot of index `i` of a table: slot i mod 128 of the bank at place floor(i / 128) of its list. -/
def State.slotKey (s : State) (t : TableId) (i : Nat) : Nat :=
  (s.banksOf t).getD (i / Config.bankSlots) 0 * Config.bankSlots + i % Config.bankSlots

def State.entry (s : State) (t : TableId) (i : Nat) : Slot := s.slot (s.slotKey t i)
def State.setEntry (s : State) (t : TableId) (i : Nat) (x : Slot) : State := s.setSlot (s.slotKey t i) x

/-- The route at index `i`, if the slot is ACTIVE. -/
def State.routeAt (s : State) (i : Nat) : Option Route :=
  match s.entry .route i with
  | .route r => some r
  | .empty | .narrow _ | .wideHead _ | .continuation _ => none

/-! ### Rules (R109, R111) -/

/-- The index of the rule that holds slot `i` of the admission table: itself, or the head below a continuation. -/
def State.ruleIndex (s : State) (i : Nat) : Nat :=
  match s.entry .admission i with
  | .continuation _ => i - 1
  | .empty | .narrow _ | .wideHead _ | .route _ => i

/-- The rule that holds slot `i`, with its head's index, its wide key if it is wide. -/
def State.ruleAt (s : State) (i : Nat) : Option (Nat × Rule × Option WideKey) :=
  let h := s.ruleIndex i
  match s.entry .admission h with
  | .narrow r => some (h, r, none)
  | .wideHead r =>
    match s.entry .admission (h + 1) with
    | .continuation w => some (h, r, some w)
    | .empty | .narrow _ | .wideHead _ | .route _ => none
  | .empty | .continuation _ | .route _ => none

/-- Whether slot `i` of a table holds an ACTIVE entry; a continuation counts as its head does (R123). -/
def State.activeAt (s : State) (t : TableId) (i : Nat) : Bool :=
  match t with
  | .route => (s.routeAt i).isSome
  | .admission =>
    match s.ruleAt i with
    | some (_, r, _) => r.active
    | none => false

/-- The slots of the rule that holds slot `i`: one, or two for a wide rule; the slot alone where no rule holds it. -/
def State.ruleSlots (s : State) (i : Nat) : List Nat :=
  match s.ruleAt i with
  | some (h, _, some _) => [h, h + 1]
  | some (h, _, none) => [h]
  | none => [i]

/-! ### Ranges of the block operation (R129, R138) -/

def Block.inSource (b : Block) (i : Nat) : Bool := decide (b.first ≤ i ∧ i < b.first + b.count)

/-- Only a MOVE has a destination range. -/
def Block.inDest (b : Block) (i : Nat) : Bool :=
  decide (b.kind = .move ∧ (b.first : Int) + b.offset ≤ i ∧ (i : Int) < (b.first : Int) + b.count + b.offset)

def Block.inRange (b : Block) (i : Nat) : Bool := b.inSource i || b.inDest i

/-- The slots a STOPPED operation exempts from its lock: those that blocked the step, and those of a rule that holds one (R138).
The rules are those that stand when the command is judged, not those of the stop (DESIGN CHOICE, log entry 28). -/
def State.exemptSlots (s : State) (b : Block) : List Nat :=
  match b.phase with
  | .stopped _ _ blocked =>
    match b.table with
    | .admission => blocked ++ blocked.flatMap s.ruleSlots
    | .route => blocked
  | .running | .suspended => []

/-- Whether the range lock refuses a write that touches `touched` of table `t` (R138). -/
def State.locked (s : State) (t : TableId) (touched : List Nat) : Bool :=
  match s.block with
  | none => false
  | some b => decide (b.table = t) && touched.any fun i => b.inRange i && !(s.exemptSlots b).contains i

/-! ### Gain commands (R15, R16) -/

/-- A route's gain fields after SET ROUTE GAIN with target `t` and ramp length `n` (R15). -/
def Route.setGain (r : Route) (t n : Nat) : Route :=
  if n = 0 then { r with current := t * 65536, target := t, remaining := 0, step := 0 }
  else { r with target := t, remaining := n, step := ((t : Int) * 65536 - r.current).tdiv n }

/-- The product of R16's first step. -/
def Route.product (r : Route) (y : Int) : Int :=
  match r.polarity with
  | .normal => y * (r.current / 65536 : Nat)
  | .inverted => -(y * (r.current / 65536 : Nat))

/-- The ramp advance of R16's second step. -/
def Route.advance (r : Route) : Route :=
  if r.remaining = 0 then r
  else if r.remaining = 1 then { r with current := r.target * 65536, remaining := 0, step := 0 }
  else { r with current := ((r.current : Int) + r.step).toNat, remaining := r.remaining - 1 }

/-- STOP ENGINE's snap of a ramp (R7). -/
def Route.snap (r : Route) : Route := { r with current := r.target * 65536, remaining := 0, step := 0 }

end Sys2Proof.Machine
end

