-- ==== Sys2Proof/Machine/Classify.lean ====
section
/-! DEFINITION. The classifier (file 06): pass-through windows, the admission lookup and the default rules. -/

namespace Sys2Proof.Machine

/-- Two numbers have the same binary digit in every position that `care` cares for (R104, R110). -/
def sameWhere (care a b : Nat) : Bool := decide ((a ^^^ b) &&& care = 0)

def Filter.admits : Filter → Link → Bool
  | .either, _ => true
  | .link0, l => decide (l = .l0)
  | .link1, l => decide (l = .l1)

/-- A window matches a frame of stream `st` from link `l` (R104). -/
def Window.takes (w : Window) (l : Link) (st : Nat) : Bool := w.enabled && w.filter.admits l && sameWhere w.mask st w.base

/-- The forwarded stream number (R105): the translate's digits where the mask cares, the frame's elsewhere. -/
def Window.rewrite (w : Window) (st : Nat) : Nat := (st &&& (4095 ^^^ w.mask)) ||| (w.translate &&& w.mask)

/-- The window that takes a frame: the lowest-numbered that matches (R104). -/
def State.windowFor (s : State) (l : Link) (st : Nat) : Option Nat :=
  (List.range 8).find? fun w => (s.window w).takes l st

/-- Window `n` forwards a frame (R105). -/
def State.windowForward (s : State) (n : Nat) (fr : SampleFrame) : State :=
  let w := s.window n
  (s.setWindow n { w with hits := inc32 w.hits }).forward w.destination n { fr with stream := w.rewrite fr.stream }

/-- The narrow key matches a frame from link `l` (R110). -/
def narrowMatches (k : NarrowKey) (l : Link) (fr : SampleFrame) : Bool :=
  sameWhere k.linkC l.num k.linkV && sameWhere k.streamC fr.stream k.streamV && sameWhere k.classC fr.contentClass k.classV

/-- The wide key matches a frame (R110). -/
def wideMatches (k : WideKey) (fr : SampleFrame) : Bool :=
  sameWhere k.programC fr.program k.programV && sameWhere k.languageC fr.language k.languageV &&
    sameWhere k.rateC fr.rateCode k.rateV

/-- The rule that stands at index `i` matches a frame (R111). -/
def State.ruleMatches (s : State) (l : Link) (fr : SampleFrame) (i : Nat) : Bool :=
  match s.entry .admission i with
  | .narrow r => r.active && narrowMatches r.key l fr
  | .wideHead r =>
    r.active && narrowMatches r.key l fr &&
      (match s.entry .admission (i + 1) with
       | .continuation w => wideMatches w fr
       | .empty | .narrow _ | .wideHead _ | .route _ => false)
  | .empty | .continuation _ | .route _ => false

/-- The rule at the highest index that matches (R112). -/
def State.lookup (s : State) (l : Link) (fr : SampleFrame) : Option Nat :=
  (List.range (s.tableSize .admission)).reverse.find? (s.ruleMatches l fr)

/-- The rule held at index `i`, as narrow or head. -/
def Slot.rule? : Slot → Option Rule
  | .narrow r | .wideHead r => some r
  | .empty | .continuation _ | .route _ => none

/-- A slot with its rule's hit count replaced. -/
def Slot.withHits (x : Slot) (n : Nat) : Slot :=
  match x with
  | .narrow r => .narrow { r with hits := n }
  | .wideHead r => .wideHead { r with hits := n }
  | .empty => .empty
  | .continuation w => .continuation w
  | .route r => .route r

/-- The verdict carried out (R114). -/
def State.carryVerdict (s : State) (l : Link) (fr : SampleFrame) (v : Verdict) (feed : Nat) : State :=
  match v with
  | .discard => s.count l fun c => { c with discarded := inc32 c.discarded }
  | .accept => s.arrive l fr feed

/-- The lookup and what its winner does (R112, R114). -/
def State.admission (s : State) (l : Link) (fr : SampleFrame) : State :=
  match s.lookup l fr with
  | some i =>
    match (s.entry .admission i).rule? with
    | some r =>
      (s.setEntry .admission i ((s.entry .admission i).withHits (add16 r.hits 1))).carryVerdict l fr r.verdict r.feed
    | none => s
  | none =>
    let d := s.defaults.get l
    ({ s with defaults := s.defaults.set l { d with hits := inc32 d.hits } }).carryVerdict l fr d.verdict d.feed

/-- One classification event (R101). -/
def State.classify (s : State) (l : Link) (fr : SampleFrame) : State :=
  match s.windowFor l fr.stream with
  | some n => s.windowForward n fr
  | none =>
    match s.engine with
    | .run => s.admission l fr
    | .config => s.count l fun c => { c with engineStopped := inc32 c.engineStopped }
    | .starting => s

end Sys2Proof.Machine
end

