-- ==== Sys2Proof/Machine/Convert.lean ====
section
/-! DEFINITION. The rate converter (file 02): the servo, the advance, consumption and filter of one feed at one instant, and kernel memory. -/

namespace Sys2Proof.Machine

/-! ### Kernel memory -/

/-- Row `p` of a kernel set; a row never written reads as zeros (log entry 2). -/
def KernelSet.row (k : KernelSet) (p : Nat) : List Int := cellGet (List.replicate 16 0) k.rows p

/-- Row `p` written whole, and its written-row flag set (R30). -/
def KernelSet.writeRow (k : KernelSet) (p : Nat) (cs : List Int) : KernelSet :=
  { k with rows := cellSet (List.replicate 16 0) k.rows p cs, written := k.written ||| (1#65 <<< p) }

/-- The number of written-row flags set. -/
def KernelSet.writtenCount (k : KernelSet) : Nat := ((List.range 65).filter fun p => k.written.getLsbD p).length

/-- The lowest row whose flag is clear. -/
def KernelSet.firstMissing (k : KernelSet) : Option Nat := (List.range 65).find? fun p => !k.written.getLsbD p

/-- The lowest row whose coefficients sum outside 32,704 to 32,832 (R31). -/
def KernelSet.firstBadGain (k : KernelSet) : Option Nat :=
  (List.range 65).find? fun p => decide ((k.row p).sum < 32704 ∨ 32832 < (k.row p).sum)

/-! ### The servo (R43) -/

/-- One servo run of a feed. -/
def Feed.servo (f : Feed) : Feed :=
  let e : Int := (f.fill : Int) - f.target
  let i := clampAbs (f.integrator + e) 1048576
  let c := clampAbs (e * 64 + i / 16) (correctionLimit f.nominal)
  { f with integrator := i, correction := c, step := f.nominal + c }

/-! ### One instant of a feed (R38 to R42) -/

/-- The sixteen interpolated coefficients at position fraction `pos` (R41). -/
def KernelSet.taps (k : KernelSet) (pos : Nat) : List Int :=
  let p := pos / 262144
  let w : Int := (pos % 262144 : Nat)
  List.zipWith (fun a b => a + (b - a) * w / 262144) (k.row p) (k.row (p + 1))

/-- The output before saturation (R41). -/
def filterOutput (k : KernelSet) (pos : Nat) (history : List Sample) : Int :=
  ((List.zipWith (fun c x => c * x.toInt) (k.taps pos) history).sum + 16384) / 32768

/-- The output y of feed `n` recorded for the instant in progress. -/
def State.putOutput (s : State) (n : Nat) (y : Sample) : State :=
  match s.instant with
  | some w => { s with instant := some { w with outputs := cellSet 0 w.outputs n y } }
  | none => s

/-- A clipped instant of feed `n` whose output before saturation is `y` (R42). -/
def State.feedClip (s : State) (n : Nat) (y : Int) : State :=
  let f := s.feed n
  (s.setFeed n { f with clipCount := add16 f.clipCount 1 }).stickyEvent n .feedClip .feedClip [wordInt y]

/-- Zeros entered into the history for missing samples (R40). -/
def State.pushZeros (s : State) (n : Nat) : (k : Nat) → State
  | 0 => s
  | k + 1 => (s.setFeed n { s.feed n with history := pushHistory (s.feed n).history 0 }).pushZeros n k

/-- A RUNNING feed that ran short by `missing` samples becomes STARVED (R52). -/
def State.starve (s : State) (n missing : Nat) : State :=
  let f := s.feed n
  let s1 := s.setFeed n
    { f with state := .starved, history := zeroHistory, underrunCount := add16 f.underrunCount 1 }
  (s1.stickyEvent n .underrun .underrun [wordNat missing]).stateEvent n .stateStarved .starved

/-- A drain that ends (R55): the feed closes, and a STATE event gives CLOSED. -/
def State.endDrain (s : State) (n : Nat) : State := (s.closeFeed n).stateEvent n .stateClosed .closed

/-- The carry of R38: how many input samples the position moves past. -/
def Feed.carry (f : Feed) : Nat := ((f.position + f.step) / 16777216).toNat

/-- The position fraction after the advance of R38. -/
def Feed.advanced (f : Feed) : Nat := ((f.position + f.step) % 16777216).toNat

/-- The advance and consumption of R38 to R40, with the consumption flow check of R65. -/
def State.advanceFeed (s : State) (n : Nat) : State :=
  let f := s.feed n
  let k := f.carry
  let real := min k f.fill
  let s1 := (s.setFeed n { f with position := f.advanced }).consumeSamples n real
  let s2 := if real = 0 then s1 else s1.consumptionFlow n
  s2.pushZeros n (k - real)

/-- The filter and saturation of R41 and R42: the output is recorded. -/
def State.outputFeed (s : State) (n : Nat) : State :=
  let f := s.feed n
  let y := filterOutput (s.kernel f.kernel) f.position f.history
  let s1 := if clips24 y then s.feedClip n y else s
  s1.putOutput n (BitVec.ofInt 24 (saturate24 y))

/-- The work of R38 to R42 on a RUNNING or DRAINING feed, and what a short buffer does after it (R40). -/
def State.convertFeed (s : State) (n : Nat) : State :=
  let f := s.feed n
  let s1 := (s.advanceFeed n).outputFeed n
  if f.fill < f.carry then
    match f.state with
    | .running => s1.starve n (f.carry - f.fill)
    | .draining => s1.endDrain n
    | .closed | .priming | .starved => s1
  else s1

/-- Feed `n`'s servo, if it runs at this instant (R43): the feed is RUNNING and house time is a multiple of 256. -/
def State.servoIfDue (s : State) (n : Nat) : State :=
  if (s.feed n).state = .running ∧ s.houseTime.toNat % 256 = 0 then s.setFeed n (s.feed n).servo else s

/-- Feed `n`'s one step of the third stage (R36, R37, R50). -/
def State.feedStep (s : State) (n : Nat) : State :=
  let s1 := (s.startEval n).servoIfDue n
  match (s1.feed n).state with
  | .running | .draining => s1.convertFeed n
  | .closed | .priming | .starved => s1

end Sys2Proof.Machine
end

