-- ==== Sys2Proof/Machine/Cue.lean ====
section
/-! DEFINITION. The cue queue (file 05): insertion, application at the first stage of an instant, and the bus and gain effects a cue shares with its untimed command. -/

namespace Sys2Proof.Machine

/-! ### The effects that a command and its cue share (R15, R20, R53, R54) -/

def State.applyRouteGain (s : State) (i t n : Nat) : State :=
  match s.routeAt i with
  | some r => s.setEntry .route i (.route (r.setGain t n))
  | none => s

/-- A trim above 32,768 is clamped (R20). -/
def State.applyBusTrim (s : State) (b trim : Nat) : State := s.setBus b { s.bus b with trim := min trim Config.unityTrim }

def State.applyBusMute (s : State) (b : Nat) (on : Bool) : State := s.setBus b { s.bus b with mute := on }

def State.applyBusMode (s : State) (b : Nat) (m : BusMode) (solo : Nat) : State :=
  s.setBus b { s.bus b with mode := m, soloFeed := solo }

def State.applyClose (s : State) (n : Nat) : CloseMode → State
  | .immediate => s.closeFeed n
  | .drain => s.drainFeed n

/-! ### Insertion (R88, R91) -/

/-- The cue horizon: the earliest instant whose first stage has not begun (R88). While instant 2^48 − 1 is in progress it is 0, as
house time wraps to 0 after it (R8); R88 writes H + 1 (DESIGN CHOICE, log entry 27). -/
def State.horizon (s : State) : Time := if s.instant.isSome then s.houseTime + 1 else s.houseTime

/-- A cue behind every cue whose activation time is at or before its own (R91). -/
def insertCue (c : Cue) : List Cue → List Cue
  | [] => [c]
  | d :: q => if d.time ≤ c.time then d :: insertCue c q else c :: d :: q

/-! ### Application (R94 to R96) -/

def CueCommand.code : CueCommand → Nat
  | .routeGain _ _ _ => 0x10
  | .busTrim _ _ => 0x13
  | .busMute _ _ => 0x14
  | .busMode _ _ _ => 0x15
  | .closeFeed _ _ => 0x23

/-- A CUE_TARGET_GONE event (R95). -/
def State.targetGone (s : State) (c : Cue) (subject : Subject) : State :=
  s.event .cueTargetGone c.tag .ok subject
    (wordNat c.command.code :: words48 c.time ++ [wordNat c.origin.num, wordBool c.acked])

/-- Whether route index `i` lies in a range of a block operation on the route table (R95); the exemption of a STOPPED
operation does not hold for cues (R138). -/
def State.routeInBlock (s : State) (i : Nat) : Bool :=
  match s.block with
  | some b => decide (b.table = .route) && b.inRange i
  | none => false

/-- One cue applied by its target's owner. The range lock is judged before the slot (log entry 8). -/
def State.applyCue (s : State) (c : Cue) : State :=
  match c.command with
  | .routeGain i t n =>
    if s.routeInBlock i then s.event .commandRefused c.tag .blockRange (.route i) [wordNat c.command.code]
    else if (s.routeAt i).isNone then s.targetGone c (.route i)
    else s.applyRouteGain i t n
  | .busTrim b t => s.applyBusTrim b t
  | .busMute b m => match onOff? m with | some on => s.applyBusMute b on | none => s
  | .busMode b m f => match busMode? m with | some md => s.applyBusMode b md f | none => s
  | .closeFeed f m =>
    if (s.feed f).state = .closed then s.targetGone c (.feed f)
    else match closeMode? m with
      | some .immediate => s.closeFeed f
      | some .drain => (s.drainFeed f).drainEvent f (s.feed f).state
      | none => s

/-- The first stage: every cue due at or before house time leaves the queue in order and is applied (R94). -/
def State.applyDue (s : State) : State :=
  (s.cues.filter fun c => c.time ≤ s.houseTime).foldl State.applyCue
    { s with cues := s.cues.filter fun c => !decide (c.time ≤ s.houseTime) }

end Sys2Proof.Machine
end

