-- ==== Sys2Proof/Machine/Mix.lean ====
section
/-! DEFINITION. The mix engine (file 01): the seven stages of a sample instant, each in its order, and how far an instant in progress has come. -/

namespace Sys2Proof.Machine

/-! ### Second stage (R19) -/

/-- Whether this instant is the settling point of a bus: a multiple of its link's K, or any instant where it has no link. -/
def State.settlesNow (s : State) (link : Option Link) : Bool :=
  match link with
  | some l => decide (s.houseTime.toNat % s.framing.get l = 0)
  | none => true

def State.settleBus (s : State) (b : Nat) : State :=
  let x := s.bus b
  if s.settlesNow x.link then
    match x.state with
    | .enabling => (s.clearLine b).setBus b { x with state := .enabled, index := 0 }
    | .disabling => s.setBus b { x with state := .disabled }
    | .disabled | .enabled => s
  else s

/-! ### Fourth stage (R16) -/

/-- The work of route index `i`: its product with the gain in force joins its bus's sum, then its ramp advances. -/
def State.routeStep (s : State) (i : Nat) : State :=
  match s.routeAt i, s.instant with
  | some r, some w =>
    let y := (cellGet 0 w.outputs r.feed).toInt
    ({ s with instant := some { w with sums := cellSet 0 w.sums r.bus (cellGet 0 w.sums r.bus + r.product y) } }).setEntry .route i
      (.route r.advance)
  | _, _ => s

/-! ### Fifth stage (R24 to R26, R81) -/

/-- r2 of R24, before saturation. -/
def Bus.mixed (b : Bus) (sum y : Int) : Int :=
  match b.mode with
  | .normal => ((sum + 8192) / 16384 * b.trim + 16384) / 32768
  | .solo => y
  | .silent => 0

/-- A clipped instant of bus `b` whose value before saturation is `r2` (R25). -/
def State.busClip (s : State) (b : Nat) (r2 : Int) : State :=
  let x := s.bus b
  let s1 := if x.clipFlag then s
    else s.plainEvent .clip (.bus b) [wordInt (max (-2147483648) (min r2 2147483647))]
  s1.setBus b { x with clipCount := add16 x.clipCount 1, clipFlag := true }

/-- The value `v` through bus `b`'s delay line: what comes out, and the device after it (R26, R81). -/
def State.delayLine (s : State) (b : Nat) (v : Sample) : State × Sample :=
  let x := s.bus b
  if x.delay = 0 then (s, v)
  else
    let a := pageAddress x.pages x.index
    ((s.setWord a v).setBus b { x with index := (x.index + 1) % x.delay }, s.word a)

/-- A finished sample recorded for the instant in progress. -/
def State.putFinished (s : State) (b : Nat) (v : Sample) : State :=
  match s.instant with
  | some w => { s with instant := some { w with finished := w.finished ++ [(b, v)] } }
  | none => s

/-- The work of bus `b`, if it is in the mix: sum, trim, saturation, delay line, mute. -/
def State.mixBus (s : State) (b : Nat) : State :=
  match s.instant with
  | some w =>
    let x := s.bus b
    if x.inMix then
      let r2 := x.mixed (cellGet 0 w.sums b) (cellGet 0 w.outputs x.soloFeed).toInt
      let s1 := if clips24 r2 then s.busClip b r2 else s
      let (s2, out) := s1.delayLine b (BitVec.ofInt 24 (saturate24 r2))
      s2.putFinished b (if x.mute then 0 else out)
    else s
  | none => s

/-! ### An instant in progress -/

/-- `f` applied at every number from `a` up to but not including `n`. -/
def forRange (f : State → Nat → State) (a n : Nat) (s : State) : State := (List.range' a (n - a)).foldl f s

def State.work (s : State) : InstantWork := s.instant.getD InstantWork.initial
def State.mapWork (s : State) (f : InstantWork → InstantWork) : State := { s with instant := s.instant.map f }

/-- The first stage of the instant that house time names (R12, R88). -/
def State.beginInstant (s : State) : State := { s.applyDue with instant := some InstantWork.initial }

/-- The instant in progress, begun if none is. -/
def State.inInstant (s : State) : State := if s.instant.isSome then s else s.beginInstant

/-- The work through the second stage of the buses below `n`. -/
def State.settleTo (n : Nat) (s : State) : State :=
  (forRange State.settleBus s.work.nextBus n s).mapWork fun w => { w with nextBus := max w.nextBus n }

/-- The work through the third stage of the feeds below `n`, ascending (R36). -/
def State.feedsTo (n : Nat) (s : State) : State :=
  let s := s.settleTo Config.buses
  (forRange State.feedStep s.work.nextFeed n s).mapWork fun w => { w with nextFeed := max w.nextFeed n }

/-- The work through the fourth stage of the routes below `n`. -/
def State.routesTo (n : Nat) (s : State) : State :=
  let s := s.feedsTo Config.feeds
  (forRange State.routeStep s.work.nextRoute n s).mapWork fun w => { w with nextRoute := max w.nextRoute n }

/-- The work through the fifth stage of the buses below `n`. -/
def State.mixTo (n : Nat) (s : State) : State :=
  let s := s.routesTo (s.tableSize .route)
  (forRange State.mixBus s.work.nextMix n s).mapWork fun w => { w with nextMix := max w.nextMix n }

/-- The sixth stage of the link numbered `i`. -/
def State.handStep (s : State) (i : Nat) : State :=
  match Link.ofNat? i with
  | some l => s.handLink l s.work.finished
  | none => s

/-- The work through the sixth stage of the links below `n`. -/
def State.handTo (n : Nat) (s : State) : State :=
  let s := s.mixTo Config.buses
  (forRange State.handStep s.work.nextLink n s).mapWork fun w => { w with nextLink := max w.nextLink n }

/-- What is left of the instant in progress, to the seventh stage (R12); nothing where none is in progress. -/
def State.finishInstant (s : State) : State :=
  if s.instant.isSome then
    let s := s.handTo 2
    { s with instant := none, houseTime := s.houseTime + 1 }
  else s

/-- One sample instant: the present one from where it stands, or a whole one (R12). In RUN only (R4). -/
def State.sampleInstant (s : State) : State := if s.engine = .run then s.inInstant.finishInstant else s

end Sys2Proof.Machine
end

