-- ==== Sys2Proof/Machine/Staging.lean ====
section
/-! DEFINITION. Banks, staging records and entries (file 07): ASSIGN BANK, STAGE RULE, STAGE ROUTE, CLEAR STAGING, WRITE ENTRY, READ ENTRY, ENABLE RULE and DISABLE RULE, as the table unit carries them out. -/

namespace Sys2Proof.Machine

/-! ### Banks (R119) -/

def State.bankTaken (s : State) (b : Nat) : Bool := s.admissionBanks.contains b || s.routeBanks.contains b

def State.addBank (s : State) (b : Nat) : TableId → State
  | .admission => { s with admissionBanks := s.admissionBanks ++ [b] }
  | .route => { s with routeBanks := s.routeBanks ++ [b] }

def State.ownAssignBank (s : State) (a : Ask) (bank table : Nat) : State :=
  if s.engine = .run then s.refuse a .wrongState []
  else if 15 < bank then s.refuse a .badIndex []
  else match table? table with
    | none => s.refuse a .badOperand []
    | some t =>
      if s.bankTaken bank then s.refuse a .bankTaken []
      else (s.addBank bank t).reply a .ok [wordNat (s.tableSize t), wordNat (s.tableSize t + Config.bankSlots)]

/-! ### Staging (R120 to R122) -/

def State.stage (s : State) (l : Link) (i : Image) : State := { s with staging := s.staging.set l i }

/-- A good STAGE RULE's image; none where R121's first two checks refuse it. The kinds are NARROW 1 and WIDE 2. -/
def ruleImage? (kind state : Nat) (key : NarrowKey) (wide : Option WideKey) (verdict feed : Nat) : Option Image :=
  match kind, wide, ruleState? state, verdict? verdict with
  | 1, none, some act, some v => if narrowKeyFits key then some (.narrow act key v feed) else none
  | 2, some w, some act, some v =>
    if narrowKeyFits key && wideKeyFits w then some (.wide act key w v feed) else none
  | _, _, _, _ => none

def State.ownStageRule (s : State) (a : Ask) (kind state : Nat) (key : NarrowKey) (wide : Option WideKey) (verdict feed : Nat) :
    State :=
  match ruleImage? kind state key wide verdict feed with
  | none => s.refuse a .badOperand []
  | some i =>
    if 127 < feed then s.refuse a .badIndex []
    else (s.stage a.link i).reply a .ok [wordNat i.kindNum]

def State.ownStageRoute (s : State) (a : Ask) (feed bus polarity gain : Nat) : State :=
  if 127 < feed ∨ 63 < bus then s.refuse a .badIndex []
  else match polarity? polarity with
    | none => s.refuse a .badOperand []
    | some p => (s.stage a.link (.route feed bus p gain)).reply a .ok [wordNat 3]

def State.ownClearStaging (s : State) (a : Ask) : State := (s.stage a.link .empty).reply a .ok [wordNat 0]

/-! ### Writing (R123 to R125) -/

/-- The image's kind belongs to the table; the EMPTY image fits both. -/
def Image.fits : Image → TableId → Bool
  | .empty, _ => true
  | .narrow _ _ _ _, t | .wide _ _ _ _ _, t => decide (t = .admission)
  | .route _ _ _ _, t => decide (t = .route)

def Image.isWide : Image → Bool
  | .wide _ _ _ _ _ => true
  | .empty | .narrow _ _ _ _ | .route _ _ _ _ => false

/-- The slots the image itself covers at index `i`. -/
def Image.covers (img : Image) (i : Nat) : List Nat := if img.isWide then [i, i + 1] else [i]

/-- The touched slots (R123): those the image covers, and the rest of every rule that holds one of them. -/
def State.touched (s : State) (t : TableId) (i : Nat) (img : Image) : List Nat :=
  match t with
  | .route => [i]
  | .admission => img.covers i ++ (img.covers i).flatMap s.ruleSlots

/-- Every slot listed made EMPTY. -/
def State.emptySlots (s : State) (t : TableId) (is : List Nat) : State := is.foldl (fun u j => u.setEntry t j .empty) s

/-- The image written at index `i` over its touched slots (R124, R125): each rule that held one of them is removed whole first. -/
def State.putImage (s : State) (t : TableId) (i : Nat) (img : Image) : State :=
  let s1 := s.emptySlots t (s.touched t i img)
  match img with
  | .empty => s1
  | .narrow act k v f => s1.setEntry t i (.narrow { active := act, key := k, verdict := v, feed := f, hits := 0 })
  | .wide act k w v f =>
    (s1.setEntry t i (.wideHead { active := act, key := k, verdict := v, feed := f, hits := 0 })).setEntry t (i + 1)
      (.continuation w)
  | .route f b p g =>
    s1.setEntry t i
      (.route { feed := f, bus := b, polarity := p, current := g * 65536, target := g, remaining := 0, step := 0 })

/-- The number of rules that hold a touched slot (R124's third value word). -/
def State.rulesIn (s : State) (is : List Nat) : Nat := (is.filterMap fun j => (s.ruleAt j).map (·.1)).dedup.length

/-- An ACTIVE route already joins this feed and this bus (R125). -/
def State.routeJoins (s : State) (feed bus : Nat) : Bool :=
  (List.range (s.tableSize .route)).any fun j =>
    match s.routeAt j with
    | some r => decide (r.feed = feed ∧ r.bus = bus)
    | none => false

def State.duplicates (s : State) : Image → Bool
  | .route f b _ _ => s.routeJoins f b
  | .empty | .narrow _ _ _ _ | .wide _ _ _ _ _ => false

/-- The value words of a WRITE ENTRY to table `t` (R124, R125). -/
def State.writtenWords (s : State) (t : TableId) (i : Nat) (img : Image) : List Word :=
  match t with
  | .admission => [wordNat i, wordNat img.kindNum, wordNat (s.rulesIn (s.touched t i img))]
  | .route => [wordNat i, wordBool (decide (img ≠ .empty))]

/-- The table unit's changes to the route table, and its reads of it, fall between instants (R128). -/
def State.between (s : State) : TableId → State
  | .route => s.finishInstant
  | .admission => s

def State.ownWriteEntry (s : State) (a : Ask) (table index : Nat) : State :=
  match table? table with
  | none => s.refuse a .badOperand []
  | some t =>
    let s := s.between t
    let img := s.staging.get a.link
    if s.tableSize t ≤ index then s.refuse a .badIndex []
    else if !img.fits t then s.refuse a .wrongTable []
    else if img.isWide && decide (index % 2 = 1) then s.refuse a .badAlignment []
    else if s.locked t (s.touched t index img) then s.refuse a .blockRange []
    else if decide (img ≠ .empty) && (s.touched t index img).any (s.activeAt t) then s.refuse a .occupied []
    else if s.duplicates img then s.refuse a .duplicateRoute []
    else (s.putImage t index img).reply a .ok (s.writtenWords t index img)

/-! ### Reading (R126) -/

/-- ACTIVE 0, DISABLED 1 (log entry 12). -/
def wordActive (act : Bool) : Word := if act then 0 else 1

def narrowWords (k : NarrowKey) : List Word :=
  [wordNat k.linkV, wordNat k.linkC, wordNat k.streamV, wordNat k.streamC, wordNat k.classV, wordNat k.classC]

def wideWords (k : WideKey) : List Word :=
  [wordNat k.programV, wordNat k.programC, wordNat k.languageV, wordNat k.languageC, wordNat k.rateV, wordNat k.rateC]

/-- The image of the entry at index `i`: what READ ENTRY stages and what SCAN compares. -/
def State.imageAt (s : State) (t : TableId) (i : Nat) : Image :=
  match t with
  | .route =>
    match s.routeAt i with
    | some r => .route r.feed r.bus r.polarity r.target
    | none => .empty
  | .admission =>
    match s.ruleAt i with
    | some (_, r, none) => .narrow r.active r.key r.verdict r.feed
    | some (_, r, some w) => .wide r.active r.key w r.verdict r.feed
    | none => .empty

/-- The value words of READ ENTRY (R126, log entry 13). -/
def State.entryWords (s : State) (t : TableId) (i : Nat) : List Word :=
  match t with
  | .route =>
    match s.routeAt i with
    | some r =>
      [wordNat i, wordNat 3, wordNat (r.current / 65536), wordNat (r.current % 65536), wordNat r.target, wordNat r.remaining] ++
        wordsInt48 r.step
    | none => [wordNat i, wordNat 0]
  | .admission =>
    match s.ruleAt i with
    | some (h, r, w) =>
      [wordNat h, wordNat (if w.isSome then 2 else 1), wordActive r.active] ++ narrowWords r.key ++
        (match w with | some w => wideWords w | none => []) ++ [wordNat r.verdict.num, wordNat r.feed, wordNat r.hits]
    | none => [wordNat i, wordNat 0]

def State.ownReadEntry (s : State) (a : Ask) (table index : Nat) : State :=
  match table? table with
  | none => s.refuse a .badOperand []
  | some t =>
    let s := s.between t
    if s.tableSize t ≤ index then s.refuse a .badIndex []
    else (s.stage a.link (s.imageAt t index)).reply a .ok (s.entryWords t index)

/-! ### ENABLE RULE and DISABLE RULE (R127) -/

def Slot.withActive (x : Slot) (act : Bool) : Slot :=
  match x with
  | .narrow r => .narrow { r with active := act }
  | .wideHead r => .wideHead { r with active := act }
  | .empty => .empty
  | .continuation w => .continuation w
  | .route r => .route r

def State.setRuleActive (s : State) (a : Ask) (index : Nat) (act : Bool) : State :=
  if s.tableSize .admission ≤ index then s.refuse a .badIndex []
  else if s.locked .admission (index :: s.ruleSlots index) then s.refuse a .blockRange []
  else match s.ruleAt index with
    | none => s.refuse a .badIndex []
    | some (h, r, _) =>
      (s.setEntry .admission h ((s.entry .admission h).withActive act)).reply a .ok
        [wordNat h, wordActive r.active, wordActive act]

def State.ownEnableRule (s : State) (a : Ask) (index : Nat) : State := s.setRuleActive a index true
def State.ownDisableRule (s : State) (a : Ask) (index : Nat) : State := s.setRuleActive a index false

end Sys2Proof.Machine
end

