-- ==== Sys2Proof/Machine/Block.lean ====
section
/-! DEFINITION. The block operation (file 07): its start, its entry steps, its stop, its control and its end. -/

namespace Sys2Proof.Machine

/-! ### Ends and stops (R136, R139) -/

/-- The one end report, and the context IDLE: the held reply of an acknowledged start, or a BLOCK_END event. -/
def State.endBlock (s : State) (b : Block) (st : Status) (next : Option Nat) (remaining : Nat) : State :=
  let ws := [wordNat b.kind.num, wordNat b.table.num, wordOptNat next, wordNat remaining]
  if b.acked then
    { s with block := none, heldPlace := false }.pushReport
      { earlierLost := false, kind := .reply, code := b.kind.code, tag := b.tag, status := st, subject := .block, time := 0,
        words := ws }
  else { s with block := none }.event .blockEnd b.tag st .block ws

/-- The status with which an operation of this kind ends when no slot of its range is left. -/
def BlockKind.finalStatus : BlockKind → Status
  | .scan => .notFound
  | .move | .fill | .clearHits => .done

/-- The context after a step over `n` slots. -/
def Block.advance (b : Block) (n : Nat) : Block :=
  { b with next := if b.descending then b.next - n else b.next + n, remaining := b.remaining - n }

/-- A step over `n` slots is done: the operation goes on, or ends when its remaining count reaches 0. -/
def State.stepDone (s : State) (b : Block) (n : Nat) : State :=
  if (b.advance n).remaining = 0 then s.endBlock b b.kind.finalStatus none 0
  else { s with block := some (b.advance n) }

/-- The operation stops: `slots` are the slots that blocked the step, of which the lowest names the blocking index. -/
def State.stopBlock (s : State) (b : Block) (r : StopReason) (slots : List Nat) : State :=
  let i := match b.table with
    | .admission => s.ruleIndex (slots.headD 0)
    | .route => slots.headD 0
  { s with block := some { b with phase := .stopped r i slots } }.event .blockStopped b.tag r.status .block
    [wordNat b.kind.num, wordNat r.num, wordNat i, wordNat b.next, wordNat b.remaining]

/-! ### Entry steps -/

/-- The slots that one step takes together at index `q`: both of a wide rule, and one otherwise; none at an EMPTY slot. -/
def State.stepSlots (s : State) (t : TableId) (q : Nat) : List Nat :=
  match t with
  | .route => if (s.routeAt q).isSome then [q] else []
  | .admission => if (s.ruleAt q).isSome then s.ruleSlots q else []

/-- An index carried by a MOVE's offset. -/
def shifted (offset : Int) (i : Nat) : Nat := ((i : Int) + offset).toNat

/-- Entries carried whole to their destination slots, their source slots EMPTY after it. -/
def State.carry (s : State) (t : TableId) (offset : Int) (slots : List Nat) : State :=
  slots.foldl (fun u j => (u.setEntry t (shifted offset j) (s.entry t j)).setEntry t j .empty) s

/-- R132. -/
def State.moveStep (s : State) (b : Block) : State :=
  let src := s.stepSlots b.table b.next
  if src = [] then s.stepDone b 1
  else
    let filled := (src.map (shifted b.offset)).filter fun j => s.entry b.table j ≠ .empty
    if filled = [] then (s.carry b.table b.offset src).stepDone b src.length
    else s.stopBlock b .destOccupied filled

/-- R133. A DISABLED rule that holds a slot of the step is removed whole, also where its other slot lies outside the range (R129;
DESIGN CHOICE, log entry 29). -/
def State.fillStep (s : State) (b : Block) : State :=
  let slots := b.image.covers b.next
  let active := if b.image = .empty then [] else slots.filter (s.activeAt b.table)
  if active = [] then (s.putImage b.table b.next b.image).stepDone b slots.length
  else s.stopBlock b .occupied active

/-- STATE as SCAN compares it: EMPTY, ACTIVE or DISABLED (R134). -/
def Image.stateNum : Image → Nat
  | .empty => 0
  | .narrow act _ _ _ | .wide act _ _ _ _ => if act then 1 else 2
  | .route _ _ _ _ => 1

def Image.key? : Image → Option NarrowKey
  | .narrow _ k _ _ | .wide _ k _ _ _ => some k
  | .empty | .route _ _ _ _ => none

def Image.wide? : Image → Option WideKey
  | .wide _ _ w _ _ => some w
  | .empty | .narrow _ _ _ _ | .route _ _ _ _ => none

def Image.verdict? : Image → Option Verdict
  | .narrow _ _ v _ | .wide _ _ _ v _ => some v
  | .empty | .route _ _ _ _ => none

def Image.feed? : Image → Option Nat
  | .narrow _ _ _ f | .wide _ _ _ _ f => some f
  | .route f _ _ _ => some f
  | .empty => none

def Image.route? : Image → Option (Nat × Polarity × Nat)
  | .route _ b p g => some (b, p, g)
  | .empty | .narrow _ _ _ _ | .wide _ _ _ _ _ => none

/-- Both images hold the field that `f` reads, and hold it alike. -/
def sameField {α β : Type} [DecidableEq β] (f : Image → Option α) (g : α → β) (e i : Image) : Bool :=
  match f e, f i with
  | some x, some y => decide (g x = g y)
  | _, _ => false

/-- The number of fields that R134 lists for a table. -/
def scanFields : TableId → Nat
  | .admission => 10
  | .route => 5

/-- Whether the field at place `j` of R134's list for table `t` is equal in an entry's image `e` and the operation's image `i`. -/
def fieldEqual (t : TableId) (j : Nat) (e i : Image) : Bool :=
  match t, j with
  | _, 0 => decide (e.stateNum = i.stateNum)
  | .admission, 1 => decide (e.kindNum = i.kindNum)
  | .admission, 2 => sameField Image.key? (fun k => (k.linkV, k.linkC)) e i
  | .admission, 3 => sameField Image.key? (fun k => (k.streamV, k.streamC)) e i
  | .admission, 4 => sameField Image.key? (fun k => (k.classV, k.classC)) e i
  | .admission, 5 => sameField Image.wide? (fun k => (k.programV, k.programC)) e i
  | .admission, 6 => sameField Image.wide? (fun k => (k.languageV, k.languageC)) e i
  | .admission, 7 => sameField Image.wide? (fun k => (k.rateV, k.rateC)) e i
  | .admission, 8 => sameField Image.verdict? id e i
  | .admission, 9 => sameField Image.feed? id e i
  | .route, 1 => sameField Image.feed? id e i
  | .route, 2 => sameField Image.route? (·.1) e i
  | .route, 3 => sameField Image.route? (·.2.1) e i
  | .route, 4 => sameField Image.route? (·.2.2) e i
  | _, _ => false

/-- The places of the selected fields. -/
def selectedFields (t : TableId) (selector : Nat) : List Nat := (List.range (scanFields t)).filter selector.testBit

/-- Whether an entry's image matches the scan (R134). -/
def Block.scanMatches (b : Block) (e : Image) : Bool :=
  let fields := selectedFields b.table b.selector
  match b.mode with
  | .untilEqual => fields.all fun j => fieldEqual b.table j e b.image
  | .untilDifferent => fields.any fun j => !fieldEqual b.table j e b.image

/-- R134. -/
def State.scanStep (s : State) (b : Block) : State :=
  if b.scanMatches (s.imageAt b.table b.next) then s.endBlock b .found (some b.next) b.remaining
  else s.stepDone b (max 1 (s.stepSlots b.table b.next).length)

/-- R135. -/
def State.clearHitsStep (s : State) (b : Block) : State :=
  (s.setEntry .admission b.next ((s.entry .admission b.next).withHits 0)).stepDone b
    (max 1 (s.stepSlots .admission b.next).length)

/-- An entry step of a block operation of kind `k`: taken only while one is RUNNING (R129), and on the route table between
instants (R128). -/
def State.blockStep (s : State) (k : BlockKind) (f : State → Block → State) : State :=
  match s.block with
  | some b => if b.kind = k ∧ b.phase = .running then f (s.between b.table) b else s
  | none => s

/-! ### Starting (R130 to R135) -/

/-- The range splits a wide rule: its first index is a continuation or its last a head. -/
def State.splits (s : State) (t : TableId) (first count : Nat) : Bool :=
  match t with
  | .route => false
  | .admission =>
    (match s.entry .admission first with
      | .continuation _ => true
      | .empty | .narrow _ | .wideHead _ | .route _ => false) ||
    (match s.entry .admission (first + count - 1) with
      | .wideHead _ => true
      | .empty | .narrow _ | .continuation _ | .route _ => false)

/-- A starting command that has passed its checks: the context is filled, and the reply's place is held (R130, R139). -/
def State.startBlock (s : State) (a : Ask) (b : Block) : State := { s with block := some b, heldPlace := a.acked }

/-- The context of an operation of kind `k` over `count` slots of `t` from `first` on. -/
def Ask.block (a : Ask) (k : BlockKind) (t : TableId) (first count : Nat) : Block :=
  { kind := k, table := t, first := first, count := count, offset := 0, descending := false, image := .empty, selector := 0,
    mode := .untilEqual, next := first, remaining := count, origin := a.link, tag := a.tag, acked := a.acked, phase := .running }

def State.ownMove (s : State) (a : Ask) (table source dest count : Nat) : State :=
  if s.block.isSome then s.refuse a .busy []
  else match table? table with
    | none => s.refuse a .badOperand []
    | some t =>
      if count = 0 then s.refuse a .badOperand []
      else if s.tableSize t < source + count ∨ s.tableSize t < dest + count then s.refuse a .badIndex []
      else if dest = source then s.refuse a .badOperand []
      else if t = .admission ∧ (dest + source) % 2 = 1 then s.refuse a .badAlignment []
      else if s.splits t source count then s.refuse a .badAlignment []
      else
        s.startBlock a
          { a.block .move t source count with
            offset := (dest : Int) - source
            descending := decide (source < dest)
            next := if source < dest then source + count - 1 else source }

def State.ownFill (s : State) (a : Ask) (table first count : Nat) : State :=
  let img := s.staging.get a.link
  if s.block.isSome then s.refuse a .busy []
  else match table? table with
    | none => s.refuse a .badOperand []
    | some t =>
      if count = 0 then s.refuse a .badOperand []
      else if s.tableSize t < first + count then s.refuse a .badIndex []
      else if !img.fits t then s.refuse a .wrongTable []
      else if t = .route ∧ img ≠ .empty then s.refuse a .badOperand []
      else if img.isWide ∧ (first % 2 = 1 ∨ count % 2 = 1) then s.refuse a .badAlignment []
      else if s.splits t first count then s.refuse a .badAlignment []
      else s.startBlock a { a.block .fill t first count with image := img }

/-- The selector is empty or names a field not listed for the table. -/
def badSelector (t : TableId) (selector : Nat) : Bool := decide (selector = 0 ∨ 2 ^ scanFields t ≤ selector)

/-- PROGRAM, LANGUAGE or RATE is selected. -/
def selectsWide (selector : Nat) : Bool := selector.testBit 5 || selector.testBit 6 || selector.testBit 7

def Image.isNarrow : Image → Bool
  | .narrow _ _ _ _ => true
  | .empty | .wide _ _ _ _ _ | .route _ _ _ _ => false

def State.ownScan (s : State) (a : Ask) (table first count selector mode : Nat) : State :=
  let img := s.staging.get a.link
  if s.block.isSome then s.refuse a .busy []
  else match table? table, scanMode? mode with
    | some t, some m =>
      if count = 0 then s.refuse a .badOperand []
      else if s.tableSize t < first + count then s.refuse a .badIndex []
      else if badSelector t selector then s.refuse a .badOperand []
      else if img = .empty ∧ selector ≠ 1 then s.refuse a .badOperand []
      else if !img.fits t then s.refuse a .wrongTable []
      else if img.isNarrow ∧ selectsWide selector then s.refuse a .badOperand []
      else if s.splits t first count then s.refuse a .badAlignment []
      else s.startBlock a { a.block .scan t first count with image := img, selector := selector, mode := m }
    | _, _ => s.refuse a .badOperand []

def State.ownClearHits (s : State) (a : Ask) (first count : Nat) : State :=
  if s.block.isSome then s.refuse a .busy []
  else if count = 0 then s.refuse a .badOperand []
  else if s.tableSize .admission < first + count then s.refuse a .badIndex []
  else if s.splits .admission first count then s.refuse a .badAlignment []
  else s.startBlock a (a.block .clearHits .admission first count)

/-! ### Control (R136, R137) -/

/-- The state after SUSPEND BLOCK or RESUME BLOCK, answered. -/
def State.setPhase (s : State) (a : Ask) (b : Block) (p : BlockPhase) : State :=
  { s with block := some { b with phase := p } }.reply a .ok [wordNat p.num, wordNat b.next, wordNat b.remaining]

def BlockPhase.suspend : BlockPhase → BlockPhase
  | .running | .suspended => .suspended
  | .stopped r i js => .stopped r i js

def State.ownSuspendBlock (s : State) (a : Ask) : State :=
  match s.block with
  | none => s.refuse a .noBlock []
  | some b => s.setPhase a b b.phase.suspend

def State.ownResumeBlock (s : State) (a : Ask) : State :=
  match s.block with
  | none => s.refuse a .noBlock []
  | some b => s.setPhase a b .running

/-- ABANDON BLOCK's reply enters first, and the operation's end report after it. -/
def State.ownAbandonBlock (s : State) (a : Ask) : State :=
  match s.block with
  | none => s.refuse a .noBlock []
  | some b =>
    (s.reply a .ok [wordNat b.next, wordNat b.remaining]).endBlock b .abandoned (some b.next) b.remaining

end Sys2Proof.Machine
end

