-- ==== Sys2Proof/Machine/BusCommands.lean ====
section
/-! DEFINITION. What the mix engine does with its bus commands (file 01, R18 to R23; file 04, R78). Each is taken between instants (R12). -/

namespace Sys2Proof.Machine

/-- R18's table for ENABLE BUS. -/
def BusState.enable : BusState → BusState
  | .disabled | .enabling => .enabling
  | .enabled | .disabling => .enabled

/-- R18's table for DISABLE BUS. -/
def BusState.disable : BusState → BusState
  | .disabled | .enabling => .disabled
  | .enabled | .disabling => .disabling

def State.ownEnableBus (s : State) (a : Ask) (b : Nat) : State :=
  let s := s.finishInstant
  if 63 < b then s.refuse a .badIndex []
  else (s.setBus b { s.bus b with state := (s.bus b).state.enable }).reply a .ok [wordNat (s.bus b).state.enable.num]

def State.ownDisableBus (s : State) (a : Ask) (b : Nat) : State :=
  let s := s.finishInstant
  if 63 < b then s.refuse a .badIndex []
  else (s.setBus b { s.bus b with state := (s.bus b).state.disable }).reply a .ok [wordNat (s.bus b).state.disable.num]

def State.ownSetBusTrim (s : State) (a : Ask) (b trim : Nat) : State :=
  let s := s.finishInstant
  if 63 < b then s.refuse a .badIndex []
  else (s.applyBusTrim b trim).reply a .ok [wordNat (min trim Config.unityTrim)]

def State.ownSetBusMute (s : State) (a : Ask) (b mute : Nat) : State :=
  let s := s.finishInstant
  if 63 < b then s.refuse a .badIndex []
  else match onOff? mute with
    | none => s.refuse a .badOperand []
    | some on => (s.applyBusMute b on).reply a .ok [wordBool on]

def State.ownSetBusMode (s : State) (a : Ask) (b mode solo : Nat) : State :=
  let s := s.finishInstant
  if 63 < b then s.refuse a .badIndex []
  else match busMode? mode with
    | none => s.refuse a .badOperand []
    | some m =>
      if 127 < solo then s.refuse a .badOperand []
      else (s.applyBusMode b m solo).reply a .ok [wordNat m.num, wordNat solo]

/-- The exchange of a SET BUS DELAY that passes its checks, for a delay of `d` (R78, R82). -/
def State.exchangeDelay (s : State) (b d : Nat) : State :=
  let s1 := s.returnPages (s.bus b).pages
  let pages := s1.freeList.take (pagesFor d)
  let s2 := s1.takePages (.bus b) (pagesFor d)
  (s2.setBus b { s2.bus b with delay := d, pages := pages }).clearLine b

def State.ownSetBusDelay (s : State) (a : Ask) (b delay : Nat) : State :=
  let s := s.finishInstant
  let d := min delay Config.maxDelay
  if 63 < b then s.refuse a .badIndex []
  else if (s.bus b).state ≠ .disabled then s.refuse a .busActive []
  else if s.freeList.length + (s.bus b).pages.length < pagesFor d then s.refuse a .noPages []
  else (s.exchangeDelay b d).reply a .ok [wordNat d, wordNat (pagesFor d)]

def State.ownSetBusLink (s : State) (a : Ask) (b link : Nat) : State :=
  let s := s.finishInstant
  if 63 < b then s.refuse a .badIndex []
  else if (s.bus b).state ≠ .disabled then s.refuse a .busActive []
  else match busLink? link with
    | none => s.refuse a .badOperand []
    | some l => (s.setBus b { s.bus b with link := l }).reply a .ok []

/-- The ten value words of READ BUS (R23). -/
def Bus.words (b : Bus) : List Word :=
  [wordNat b.state.num, wordNat b.mode.num, wordNat b.soloFeed, wordNat b.trim, wordBool b.mute, wordNat b.delay,
    wordNat b.pages.length, wordNat (match b.link with | some l => l.num | none => 255), wordNat b.clipCount,
    wordBool b.clipFlag]

def State.ownReadBus (s : State) (a : Ask) (b : Nat) : State :=
  let s := s.finishInstant
  if 63 < b then s.refuse a .badIndex [] else s.reply a .ok (s.bus b).words

def State.ownAckBusEvents (s : State) (a : Ask) (b clear : Nat) : State :=
  let s := s.finishInstant
  if 63 < b then s.refuse a .badIndex []
  else match onOff? clear with
    | none => s.refuse a .badOperand []
    | some c =>
      let x := s.bus b
      (s.setBus b { x with clipFlag := false, clipCount := if c then 0 else x.clipCount }).reply a .ok [wordNat x.clipCount]

end Sys2Proof.Machine
end

