-- ==== Sys2Proof/Machine/ClassifierCommands.lean ====
section
/-! DEFINITION. What the classifier does with its window and default-rule commands (file 06, R107, R108, R113). -/

namespace Sys2Proof.Machine

/-- A window with its counts cleared if asked. -/
def Window.cleared (w : Window) (clear : Bool) : Window := if clear then { w with hits := 0, drops := 0 } else w

/-- R107. -/
def State.ownSetWindow (s : State) (a : Ask) (window enabled filter base mask translate destination clear : Nat) : State :=
  if 7 < window then s.refuse a .badIndex []
  else match onOff? enabled, filter? filter, Link.ofNat? destination, onOff? clear with
    | some on, some fl, some dest, some c =>
      if 4095 < base ∨ 4095 < mask ∨ 4095 < translate then s.refuse a .badOperand []
      else
        let w := s.window window
        (s.setWindow window
          ({ w with enabled := on, filter := fl, base := base, mask := mask, translate := translate,
                    destination := dest }.cleared c)).reply a .ok [wordNat w.hits, wordNat w.drops]
    | _, _, _, _ => s.refuse a .badOperand []

/-- The eight value words of READ WINDOW (R108). -/
def Window.words (w : Window) : List Word :=
  [wordBool w.enabled, wordNat w.filter.num, wordNat w.base, wordNat w.mask, wordNat w.translate, wordNat w.destination.num,
    wordNat w.hits, wordNat w.drops]

def State.ownReadWindow (s : State) (a : Ask) (window clear : Nat) : State :=
  if 7 < window then s.refuse a .badIndex []
  else match onOff? clear with
    | none => s.refuse a .badOperand []
    | some c => (s.setWindow window ((s.window window).cleared c)).reply a .ok (s.window window).words

def DefaultRule.cleared (d : DefaultRule) (clear : Bool) : DefaultRule := if clear then { d with hits := 0 } else d

def State.setDefault (s : State) (l : Link) (d : DefaultRule) : State := { s with defaults := s.defaults.set l d }

/-- R113. -/
def State.ownSetDefaultRule (s : State) (a : Ask) (link verdict feed clear : Nat) : State :=
  match Link.ofNat? link with
  | none => s.refuse a .badIndex []
  | some l =>
    if 127 < feed then s.refuse a .badIndex []
    else match onOff? clear, verdict? verdict with
      | some c, some v =>
        let d := s.defaults.get l
        (s.setDefault l ({ d with verdict := v, feed := feed }.cleared c)).reply a .ok [wordNat d.hits]
      | _, _ => s.refuse a .badOperand []

def State.ownReadDefaultRule (s : State) (a : Ask) (link clear : Nat) : State :=
  match Link.ofNat? link with
  | none => s.refuse a .badIndex []
  | some l =>
    match onOff? clear with
    | none => s.refuse a .badOperand []
    | some c =>
      let d := s.defaults.get l
      (s.setDefault l (d.cleared c)).reply a .ok [wordNat d.verdict.num, wordNat d.feed, wordNat d.hits]

end Sys2Proof.Machine
end

