-- ==== Sys2Proof/Machine/CueCommands.lean ====
section
/-! DEFINITION. What the cue unit does with its commands and with the arrival of a timed command (file 05). -/

namespace Sys2Proof.Machine

def Cue.cancelledBy (c : Cue) (l : Link) (tag : Nat) : Bool := decide (c.tag = tag ∧ c.origin = l)

/-- R98. -/
def State.ownCancelCues (s : State) (a : Ask) (tag : Nat) : State :=
  let kept := s.cues.filter fun c => !c.cancelledBy a.link tag
  { s with cues := kept }.reply a .ok [wordNat (s.cues.length - kept.length), wordNat kept.length]

/-- R99. -/
def State.ownReadCues (s : State) (a : Ask) : State :=
  s.reply a .ok
    ([wordNat s.cues.length] ++ wordsOptTime (s.cues.head?.map (·.time)) ++
      [wordNat (s.cues.countP fun c => c.origin = .l0), wordNat (s.cues.countP fun c => c.origin = .l1),
        wordNat s.lateTolerance])

/-- R93. -/
def State.ownSetLateTolerance (s : State) (a : Ask) (tolerance : Nat) : State :=
  { s with lateTolerance := min tolerance Config.maxTolerance }.reply a .ok [wordNat (min tolerance Config.maxTolerance)]

/-! ### Arrival of a timed command (R87 to R92) -/

/-- The fourth check's operand checks; the status of the first that fails. -/
def State.cueRefusal (s : State) : CueCommand → Option Status
  | .routeGain i _ _ => if s.tableSize .route ≤ i then some .badIndex else none
  | .busTrim b _ => if 63 < b then some .badIndex else none
  | .busMute b m => if 63 < b then some .badIndex else if (onOff? m).isNone then some .badOperand else none
  | .busMode b m f =>
    if 63 < b then some .badIndex else if (busMode? m).isNone ∨ 127 < f then some .badOperand else none
  | .closeFeed f m => if 127 < f then some .badIndex else if (closeMode? m).isNone then some .badOperand else none

/-- How many instants activation time `t` lies behind the horizon; 0 where it does not (R89). -/
def State.lateness (s : State) (t : Time) : Nat := s.horizon.toNat - t.toNat

/-- A cue whose command and operands are good, judged against the horizon and the queue's room (R89, R90), and inserted. -/
def State.insertTimed (s : State) (a : Ask) (t : Time) (c : CueCommand) : State :=
  let late := s.lateness t
  let kept := if late = 0 then t else s.horizon
  if s.lateTolerance < late then s.refuse a .tooLate (words48 s.horizon ++ [wordNat (min late Config.max16)])
  else if Config.cueCapacity ≤ s.cues.length then s.refuse a .queueFull []
  else
    { s with cues := insertCue { time := kept, command := c, tag := a.tag, origin := a.link, acked := a.acked } s.cues }.reply a
      (if late = 0 then .queued else .late) (words48 kept ++ [wordNat late, wordNat (s.cues.length + 1)])

end Sys2Proof.Machine
end

