-- ==== Sys2Proof/Machine/EngineCommands.lean ====
section
/-! DEFINITION. What the mix engine does with its engine and house-time commands and with SET ROUTE GAIN (file 01; R166). Each is taken between instants: an instant in progress is finished first (R6, R12). -/

namespace Sys2Proof.Machine

/-! ### START ENGINE and STOP ENGINE (R5 to R7) -/

/-- The ENGINE_STATE event of the state the engine is in. -/
def State.engineEvent (s : State) : State := s.plainEvent .engineState .device [wordNat s.engine.num]

def State.clearSequences (s : State) : State :=
  { s with
    arbiters :=
      { zero := { s.arbiters.zero with busSequence := 0 }, one := { s.arbiters.one with busSequence := 0 } } }

def State.ownStartEngine (s : State) (a : Ask) : State :=
  let s := s.finishInstant
  if s.engine = .run then s.refuse a .wrongState []
  else ({ s.clearSequences with engine := .run }.reply a .ok (words48 s.houseTime)).engineEvent

/-- Every feed not CLOSED closes, in ascending order (R6, R77). -/
def State.closeAllFeeds (s : State) : State :=
  (List.range Config.feeds).foldl (fun t n => if (t.feed n).state = .closed then t else t.closeFeed n) s

/-- The ramp of the route at index `i` ends with its gain at the target (R7). -/
def State.snapRoute (s : State) (i : Nat) : State :=
  match s.routeAt i with
  | some r => s.setEntry .route i (.route r.snap)
  | none => s

def State.snapRoutes (s : State) : State := (List.range (s.tableSize .route)).foldl State.snapRoute s

/-- Bus `b` DISABLED with its delay line cleared (R7, R82). -/
def State.stopBus (s : State) (b : Nat) : State :=
  let t := s.clearLine b
  t.setBus b { t.bus b with state := .disabled }

def State.stopBuses (s : State) : State := (List.range Config.buses).foldl State.stopBus s

def State.dropAssemblies (s : State) : State :=
  { s with
    arbiters :=
      { zero := { s.arbiters.zero with assembly := none }, one := { s.arbiters.one with assembly := none } } }

/-- What STOP ENGINE does before its reply and its event. -/
def State.stopEngine (s : State) : State :=
  let t := { s.closeAllFeeds with cues := [] }.snapRoutes.stopBuses.dropAssemblies
  { t with engine := .config }

def State.ownStopEngine (s : State) (a : Ask) : State :=
  let s := s.finishInstant
  if s.engine = .run then (s.stopEngine.reply a .ok (words48 s.houseTime)).engineEvent
  else s.refuse a .wrongState []

/-! ### Settings of CONFIG (R9 to R11) and READ TIME (R166) -/

def State.ownSetHouseRate (s : State) (a : Ask) (rate : Nat) : State :=
  let s := s.finishInstant
  if s.engine = .run then s.refuse a .wrongState []
  else match houseRate? rate with
    | none => s.refuse a .badOperand []
    | some r => { s with houseRate := r }.reply a .ok [wordNat r.hz]

def State.ownSetHouseTime (s : State) (a : Ask) (time : Nat) : State :=
  let s := s.finishInstant
  if s.engine = .run then s.refuse a .wrongState []
  else { s with houseTime := BitVec.ofNat 48 time }.reply a .ok (words48 (BitVec.ofNat 48 time))

def State.ownSetLinkFraming (s : State) (a : Ask) (link k : Nat) : State :=
  let s := s.finishInstant
  if s.engine = .run then s.refuse a .wrongState []
  else match Link.ofNat? link with
    | none => s.refuse a .badIndex []
    | some l =>
      if k = 4 ∨ k = 8 ∨ k = 16 then { s with framing := s.framing.set l k }.reply a .ok []
      else s.refuse a .badOperand []

def State.ownReadTime (s : State) (a : Ask) : State :=
  let s := s.finishInstant
  s.reply a .ok
    (words48 s.houseTime ++
      [wordNat s.engine.num, wordNat s.houseRate.hz, wordNat s.framing.zero, wordNat s.framing.one])

/-! ### SET ROUTE GAIN, untimed (R15) -/

def State.ownSetRouteGain (s : State) (a : Ask) (index target length : Nat) : State :=
  let s := s.finishInstant
  if s.tableSize .route ≤ index then s.refuse a .badIndex []
  else match s.routeAt index with
    | none => s.refuse a .routeEmpty []
    | some r =>
      (s.applyRouteGain index target length).reply a .ok [wordNat (r.current / 65536), wordNat target, wordNat length]

end Sys2Proof.Machine
end

