-- ==== Sys2Proof/Machine/FeedCommands.lean ====
section
/-! DEFINITION. What the feed unit does with its commands (file 03, R47 to R73). -/

namespace Sys2Proof.Machine

/-- The kernel set can be named by a feed (R32). -/
def State.kernelReady (s : State) (k : Nat) : Bool := decide ((s.kernel k).state = .ready)

/-- R48. -/
def State.ownOpenFeed (s : State) (a : Ask) (feed rate set pages target autoFlow returnLink : Nat) (start : Option Nat) :
    State :=
  if s.engine ≠ .run then s.refuse a .wrongState []
  else if 127 < feed then s.refuse a .badIndex []
  else if 3 < rate ∨ ¬ (pages = 1 ∨ pages = 2 ∨ pages = 4 ∨ pages = 8) then s.refuse a .badOperand []
  else match onOff? autoFlow, Link.ofNat? returnLink with
    | some auto, some ret =>
      if 3 < set then s.refuse a .badIndex []
      else if (s.feed feed).state ≠ .closed then s.refuse a .feedBusy []
      else if !s.kernelReady set then s.refuse a .noKernel []
      else if s.freeList.length < pages then s.refuse a .noPages []
      else
        (s.openFeed feed rate set pages target auto ret (start.map (BitVec.ofNat 48))).reply a .ok
          [wordNat (pages * Config.pageWords), wordNat (clampTarget (pages * Config.pageWords) target),
            wordNat (nominalStep rate s.houseRate)]
    | _, _ => s.refuse a .badOperand []

/-- R53, R54. The reply enters before the STATE event of a drain that ends at once (R162). -/
def State.ownCloseFeed (s : State) (a : Ask) (feed mode : Nat) : State :=
  if 127 < feed then s.refuse a .badIndex []
  else match closeMode? mode with
    | none => s.refuse a .badOperand []
    | some m =>
      let f := s.feed feed
      if f.state = .closed then s.refuse a .feedClosed []
      else
        let t := s.applyClose feed m
        match m with
        | .immediate => t.reply a .ok [wordNat (t.feed feed).state.num, wordNat f.fill]
        | .drain => (t.reply a .ok [wordNat (t.feed feed).state.num, wordNat (t.feed feed).fill]).drainEvent feed f.state

/-- The servo back at the nominal step (R35, R44). -/
def Feed.resetServo (f : Feed) : Feed := { f with correction := 0, integrator := 0, step := f.nominal }

/-- The in-use counts of a RETUNE FEED from set `old` to set `new` (R32). -/
def State.moveInUse (s : State) (old new : Nat) : State :=
  if old = new then s else (s.lowerInUse old).raiseInUse new

/-- The effect of a RETUNE FEED that passes its checks; `set` is the kernel set from now on (R69, R35). -/
def State.retune (s : State) (feed rate set : Nat) : State :=
  let f := s.feed feed
  (s.moveInUse f.kernel set).setFeed feed
    { f with rateCode := rate, nominal := nominalStep rate s.houseRate, kernel := set }.resetServo

def State.ownRetuneFeed (s : State) (a : Ask) (feed rate : Nat) (set : Option Nat) : State :=
  let f := s.feed feed
  if 127 < feed then s.refuse a .badIndex []
  else if 3 < rate then s.refuse a .badOperand []
  else if set.any fun k => decide (3 < k) then s.refuse a .badIndex []
  else if f.state = .closed then s.refuse a .feedClosed []
  else if set.any fun k => !s.kernelReady k then s.refuse a .noKernel []
  else
    (s.retune feed rate (set.getD f.kernel)).reply a .ok
      [wordNat (nominalStep rate s.houseRate), wordNat (set.getD f.kernel)]

def State.ownSetFeedTarget (s : State) (a : Ask) (feed target : Nat) : State :=
  let f := s.feed feed
  if 127 < feed then s.refuse a .badIndex []
  else if f.state = .closed then s.refuse a .feedClosed []
  else
    (s.setFeed feed { f with target := clampTarget f.capacity target }.resetServo).reply a .ok
      [wordNat (clampTarget f.capacity target)]

/-- R66. -/
def State.hold (s : State) (feed : Nat) : State :=
  let t := s.sendFlow feed true
  t.setFeed feed { t.feed feed with hold := true, paused := true, parity := false }

def State.ownHoldFeed (s : State) (a : Ask) (feed : Nat) : State :=
  let f := s.feed feed
  if 127 < feed then s.refuse a .badIndex []
  else if f.state = .closed then s.refuse a .feedClosed []
  else (s.hold feed).reply a .ok [wordNat f.fill, wordBool f.binding.isSome]

/-- RELEASE FEED resumes the sender: it is paused, and not kept so by auto-flow (R67). -/
def Feed.releases (f : Feed) : Bool := f.paused && !(f.autoFlow && f.critical)

def State.release (s : State) (feed : Nat) : State :=
  let f := s.feed feed
  if f.releases then
    let t := s.sendFlow feed false
    t.setFeed feed { t.feed feed with hold := false, paused := false }
  else s.setFeed feed { f with hold := false }

def State.ownReleaseFeed (s : State) (a : Ask) (feed : Nat) : State :=
  let f := s.feed feed
  if 127 < feed then s.refuse a .badIndex []
  else if f.state = .closed then s.refuse a .feedClosed []
  else
    (s.release feed).reply a .ok
      [wordNat f.fill, wordBool (f.paused && !f.releases), wordBool (f.releases && f.binding.isSome)]

/-- The value words of READ FEED (R72). -/
def Feed.partWords (f : Feed) : FeedPart → List Word
  | .status => f.statusWords
  | .history => f.history.map wordSample

def State.ownReadFeed (s : State) (a : Ask) (feed part : Nat) : State :=
  if 127 < feed then s.refuse a .badIndex []
  else match feedPart? part with
    | none => s.refuse a .badOperand []
    | some p => s.reply a .ok ((s.feed feed).partWords p)

/-- A feed context after ACK FEED EVENTS (R73). -/
def Feed.acked (f : Feed) (clear : Bool) : Feed :=
  if clear then
    { f with sticky := 0, overflowCount := 0, underrunCount := 0, gapCount := 0, lateCount := 0, clipCount := 0 }
  else { f with sticky := 0 }

def State.ownAckFeedEvents (s : State) (a : Ask) (feed clear : Nat) : State :=
  if 127 < feed then s.refuse a .badIndex []
  else match onOff? clear with
    | none => s.refuse a .badOperand []
    | some c =>
      let f := s.feed feed
      (s.setFeed feed (f.acked c)).reply a .ok
        [f.sticky.zeroExtend 32, wordNat f.overflowCount, wordNat f.underrunCount, wordNat f.gapCount, wordNat f.lateCount,
          wordNat f.clipCount]

end Sys2Proof.Machine
end

