-- ==== Sys2Proof/Machine/KernelCommands.lean ====
section
/-! DEFINITION. What the rate converter does with LOAD KERNEL ROWS and VALIDATE KERNEL SET (file 02, R29 to R31). -/

namespace Sys2Proof.Machine

/-- A coefficient lies in −65,536 to +65,535 (R27). -/
def coefficientFits (x : Int) : Bool := decide (-65536 ≤ x ∧ x ≤ 65535)

/-- The set as LOADING: on leaving EMPTY or READY every written-row flag is clear (R30). -/
def KernelSet.loading (k : KernelSet) : KernelSet :=
  match k.state with
  | .loading => k
  | .empty | .ready => { k with state := .loading, written := 0 }

/-- `count` rows of 16 coefficients written from row `first` on. -/
def KernelSet.writeRows (k : KernelSet) (first count : Nat) (cs : List Int) : KernelSet :=
  (List.range count).foldl (fun k j => k.writeRow (first + j) ((cs.drop (16 * j)).take 16)) k

def State.ownLoadKernelRows (s : State) (a : Ask) (set first count : Nat) (cs : List Int) : State :=
  let k := s.kernel set
  if 3 < set then s.refuse a .badIndex []
  else if count = 0 ∨ 4 < count ∨ cs.length ≠ 16 * count ∨ !cs.all coefficientFits then s.refuse a .badOperand []
  else if 65 < first + count then s.refuse a .badOperand []
  else if k.state = .ready ∧ 0 < k.inUse then s.refuse a .setInUse []
  else
    let k' := k.loading.writeRows first count cs
    (s.setKernel set k').reply a .ok [wordNat k'.state.num, wordNat k'.writtenCount]

def State.ownValidateKernelSet (s : State) (a : Ask) (set : Nat) : State :=
  let k := s.kernel set
  if 3 < set then s.refuse a .badIndex []
  else match k.state with
    | .ready => s.reply a .ok []
    | .empty => s.refuse a .incomplete [wordNat 0, wordNat 0]
    | .loading =>
      match k.firstMissing with
      | some p => s.refuse a .incomplete [wordNat p, wordNat k.writtenCount]
      | none =>
        match k.firstBadGain with
        | some p => s.refuse a .dcGain [wordNat p, wordInt (k.row p).sum]
        | none => (s.setKernel set { k with state := .ready }).reply a .ok []

end Sys2Proof.Machine
end

