-- ==== Sys2Proof/Machine/LinkCommands.lean ====
section
/-! DEFINITION. What the control path does with SET LINK ROLE and SET REPORT LINK (R160, R161), and the link interfaces with READ LINK COUNTERS (R150). -/

namespace Sys2Proof.Machine

def State.ownSetLinkRole (s : State) (a : Ask) (link role : Nat) : State :=
  match Link.ofNat? link with
  | none => s.refuse a .badIndex []
  | some l =>
    match role? role with
    | none => s.refuse a .badOperand []
    | some r => { s with roles := s.roles.set l r }.reply a .ok [wordNat (s.roles.get l).num, wordNat r.num]

def State.ownSetReportLink (s : State) (a : Ask) (link : Nat) : State :=
  match Link.ofNat? link with
  | none => s.refuse a .badIndex []
  | some l => { s with reportLink := l }.reply a .ok [wordNat s.reportLink.num, wordNat l.num]

/-- The nine value words of READ LINK COUNTERS (R150). -/
def LinkState.words (x : LinkState) : List Word :=
  [wordNat (linkStateNum x.up), wordNat x.counters.good, wordNat x.counters.badCheck, wordNat x.counters.badForm,
    wordNat x.counters.engineStopped, wordNat x.counters.discarded, wordNat x.counters.stray, wordNat x.counters.drained,
    wordNat x.counters.controlDropped]

def State.ownReadLinkCounters (s : State) (a : Ask) (link clear : Nat) : State :=
  match Link.ofNat? link with
  | none => s.refuse a .badIndex []
  | some l =>
    match onOff? clear with
    | none => s.refuse a .badOperand []
    | some c =>
      (s.count l fun x => if c then Counters.initial else x).reply a .ok (s.links.get l).words

end Sys2Proof.Machine
end

