-- ==== Sys2Proof/Machine/Frames.lean ====
section
/-! DEFINITION. Frames as bytes (file 08): the integrity check, the form checks of arriving frames, and the layout of every frame the device sends. -/

namespace Sys2Proof.Machine

/-! ### The integrity check (R144) -/

/-- One bit of the reflected 32-bit check. -/
def crcBit (c : Nat) : Nat := if c % 2 = 1 then (c / 2) ^^^ 0xEDB88320 else c / 2

/-- One byte, least significant bit first. -/
def crcByte (c : Nat) (b : Byte) : Nat :=
  crcBit (crcBit (crcBit (crcBit (crcBit (crcBit (crcBit (crcBit (c ^^^ b.toNat))))))))

/-- The check over `bs`: generator 04C11DB7h, register of ones at the start, reflected and complemented. -/
def crc32 (bs : List Byte) : Nat := bs.foldl crcByte 0xFFFFFFFF ^^^ 0xFFFFFFFF

/-- A frame's bytes with the check behind them (R148). -/
def withCheck (bs : List Byte) : List Byte := bs ++ bytes4 (crc32 bs)

/-! ### Arriving frames (R145, R146, R151, R153) -/

/-- The 24-bit samples of a list of bytes; none where a byte is left over. -/
def readSamples : List Byte → Option (List Sample)
  | [] => some []
  | a :: b :: c :: rest => (readSamples rest).map (BitVec.ofNat 24 (a.toNat * 65536 + nat2 b c) :: ·)
  | _ => none

/-- A sample frame without its check, if it passes its form checks. -/
def readSampleFrame : List Byte → Option SampleFrame
  | k :: b1 :: s1 :: s0 :: q1 :: q0 :: prog :: lang :: n :: z1 :: z2 :: z3 :: rest =>
    if k = 1 ∧ b1.toNat / 4 % 4 = 0 ∧ s1.toNat / 16 = 0 ∧ z1 = 0 ∧ z2 = 0 ∧ z3 = 0 ∧ 1 ≤ n.toNat ∧ n.toNat ≤ 64 ∧
        rest.length = 3 * n.toNat then
      (readSamples rest).map fun xs =>
        { contentClass := b1.toNat / 16, rateCode := b1.toNat % 4, stream := nat2 s1 s0, sequence := nat2 q1 q0,
          program := nat1 prog, language := nat1 lang, samples := xs }
    else none
  | _ => none

/-- A credit frame without its check as class, mode and count. -/
def readCreditFrame : List Byte → Option (Nat × Nat × Nat)
  | [_, c, m, n] =>
    if (c = 1 ∨ c = 2) ∧ (m = 1 ∨ m = 2) then some (c.toNat, m.toNat, n.toNat) else none
  | _ => none

/-- A control frame's commands on link `l`, or the reason R146 gives for dropping it. -/
def readControlFrame (l : Link) : List Byte → Except Nat (List Instr)
  | _ :: count :: a1 :: a0 :: area =>
    if count.toNat < 1 ∨ 16 < count.toNat then .error 1
    else if 2048 < area.length + 8 ∨ area.length ≠ nat2 a1 a0 then .error 2
    else match readArea count.toNat area with
      | none => .error 3
      | some cs =>
        if cs.any fun c => decide (4 ≤ c.flags.toNat) then .error 4
        else .ok (cs.map (·.instr l))
  | _ => .error 2

/-! ### Frames the device sends (R151 to R155) -/

def sampleBytes (x : Sample) : List Byte := bytes3 x.toNat

def timeBytes (t : Time) : List Byte := bytes6 t.toNat

def SampleFrame.body (f : SampleFrame) : List Byte :=
  [1, BitVec.ofNat 8 (f.contentClass * 16 + f.rateCode)] ++ bytes2 f.stream ++ bytes2 f.sequence ++
    [BitVec.ofNat 8 f.program, BitVec.ofNat 8 f.language, BitVec.ofNat 8 f.samples.length, 0, 0, 0] ++
    f.samples.flatMap sampleBytes

def FlowFrame.body (f : FlowFrame) : List Byte :=
  [6, if f.pause then 1 else 2] ++ bytes2 f.stream ++ bytes2 f.fill ++ bytes2 f.capacity

def BusFrame.body (f : BusFrame) : List Byte :=
  [4, BitVec.ofNat 8 f.link.num] ++ bytes2 f.sequence ++ timeBytes f.t0 ++
    [BitVec.ofNat 8 f.k, BitVec.ofNat 8 f.buses.length] ++ f.buses.map (BitVec.ofNat 8) ++
    f.rows.flatMap fun row => row.flatMap sampleBytes

/-- A report's 16-byte head and its value words (R155). -/
def Report.body (r : Report) : List Byte :=
  [BitVec.ofNat 8 ((if r.earlierLost then 128 else 0) + (match r.kind with | .reply => 1 | .event => 2)),
    BitVec.ofNat 8 r.code] ++ bytes2 r.tag ++ [BitVec.ofNat 8 r.status.code, BitVec.ofNat 8 r.subject.kindNum] ++
    bytes2 r.subject.number ++ timeBytes r.time ++ [BitVec.ofNat 8 r.words.length, 0] ++
    r.words.flatMap fun w => bytes4 w.toNat

def EgressFrame.body : EgressFrame → List Byte
  | .bus f => f.body
  | .flow f => f.body
  | .pass f => f.body
  | .report n rs => [5, BitVec.ofNat 8 rs.length] ++ bytes2 n ++ rs.flatMap Report.body

/-- The bytes of a frame as they leave, check included (R148). -/
def frameBytes (f : EgressFrame) : List Byte := withCheck f.body

end Sys2Proof.Machine
end

