-- ==== Sys2Proof/Machine/LinkIface.lean ====
section
/-! DEFINITION. The link interfaces (file 08): debounce of the receive signal, checking of arriving frames and handing them on, and the control FIFO they feed (R156). -/

namespace Sys2Proof.Machine

/-! ### Link state (R140 to R143) -/

/-- The history with a new sample: the last three are kept. -/
def debounce (history : List Bool) (present : Bool) : List Bool :=
  let h := history ++ [present]
  if 3 < h.length then h.drop 1 else h

/-- Three samples that all disagree with the link state. -/
def disagrees (up : Bool) (h : List Bool) : Bool := h.length == 3 && h.all (· != up)

/-- The sample of one millisecond on link `l` (R140). -/
def State.linkSample (s : State) (l : Link) (present : Bool) : State :=
  let x := s.links.get l
  let h := debounce x.history present
  if disagrees x.up h then
    let s1 := { s with links := s.links.set l { x with up := !x.up, history := h } }
    let s2 := if x.up then s1.egressDown l else s1
    s2.plainEvent .link (.link l.num) [wordNat (linkStateNum (!x.up))]
  else { s with links := s.links.set l { x with history := h } }

/-! ### The control FIFO (R156) -/

/-- A control frame handed on by its link interface, as its commands. -/
def State.enqueueControl (s : State) (l : Link) (cs : List Instr) : State :=
  let dropped := s.count l fun c => { c with controlDropped := inc32 c.controlDropped }
  if s.roles.get l = .none then dropped
  else if Config.fifoCapacity ≤ (s.fifos.get l).length then
    dropped.plainEvent .controlDropped (.link l.num) [wordNat 5]
  else { s with fifos := s.fifos.set l (s.fifos.get l ++ [cs]) }

/-! ### Arriving frames (R144 to R147) -/

def State.badForm (s : State) (l : Link) : State := s.count l fun c => { c with badForm := inc32 c.badForm }
def State.goodFrame (s : State) (l : Link) : State := s.count l fun c => { c with good := inc32 c.good }

/-- A frame whose check is good, without its check: form checks, and handing on by kind. -/
def State.takeBody (s : State) (l : Link) (body : List Byte) : State :=
  match body.head? with
  | some 1 =>
    match readSampleFrame body with
    | some fr => (s.goodFrame l).classify l fr
    | none => s.badForm l
  | some 2 =>
    match readControlFrame l body with
    | .ok cs => (s.goodFrame l).enqueueControl l cs
    | .error reason => (s.badForm l).plainEvent .controlDropped (.link l.num) [wordNat reason]
  | some 3 =>
    match readCreditFrame body with
    | some (c, m, n) => (s.goodFrame l).setArb l (((s.goodFrame l).arb l).credit c m n)
    | none => s.badForm l
  | _ => s.badForm l

/-- A frame of bytes `bs` that completes on link `l`'s ingress (R144); the device is out of STARTING. -/
def State.frameArrives (s : State) (l : Link) (bs : List Byte) : State :=
  if !s.linkUp l then s
  else if bs.length < 8 then s.badForm l
  else
    let body := bs.take (bs.length - 4)
    if bytes4 (crc32 body) = bs.drop (bs.length - 4) then s.takeBody l body
    else s.count l fun c => { c with badCheck := inc32 c.badCheck }

end Sys2Proof.Machine
end

