-- ==== Sys2Proof/Machine/PoolCommands.lean ====
section
/-! DEFINITION. READ POOL (file 04, R83 to R85). -/

namespace Sys2Proof.Machine

def State.feedPages (s : State) (f : Nat) : Nat := (s.feed f).pages.length
def State.busPages (s : State) (b : Nat) : Nat := (s.bus b).pages.length

/-- The pages held by all feed buffers together. -/
def State.pagesInFeeds (s : State) : Nat := ((List.range Config.feeds).map s.feedPages).sum
/-- The pages held by all delay lines together. -/
def State.pagesInLines (s : State) : Nat := ((List.range Config.buses).map s.busPages).sum

/-- The seven words of SUMMARY. -/
def State.summaryWords (s : State) : List Word :=
  [wordNat s.freeList.length, wordNat s.pagesInFeeds, wordNat s.pagesInLines,
    wordNat ((List.range Config.feeds).countP fun f => (s.feed f).state ≠ .closed),
    wordNat ((List.range Config.buses).countP fun b => (s.bus b).pages ≠ []),
    wordOptNat s.freeList.head?, wordOptNat s.freeList.getLast?]

/-- The words of PAGE: owner, its number, and the page's place. -/
def State.pageWords (s : State) (p : Nat) : List Word :=
  match s.owner p with
  | .free => [wordNat 0, wordAbsent, wordNat (s.freeList.idxOf p)]
  | .feed n => [wordNat 1, wordNat n, wordNat ((s.feed n).pages.idxOf p)]
  | .bus n => [wordNat 2, wordNat n, wordNat ((s.bus n).pages.idxOf p)]

/-- A good part and number of READ POOL. -/
inductive PoolQuery
  | summary
  | feeds (first : Nat)
  | buses (first : Nat)
  | feedPages (feed : Nat)
  | busPages (bus : Nat)
  | page (page : Nat)
deriving DecidableEq, Repr

/-- R83's first check: the part is known, and a number is given exactly where it needs one. -/
def poolQuery? (part : Nat) (number : Option Nat) : Option PoolQuery :=
  match poolPart? part, number with
  | some .summary, none => some .summary
  | some .feeds, some n => some (.feeds n)
  | some .buses, some n => some (.buses n)
  | some .feedPages, some n => some (.feedPages n)
  | some .busPages, some n => some (.busPages n)
  | some .page, some n => some (.page n)
  | _, _ => none

/-- R83's second check: the number lies in its range. -/
def PoolQuery.inRange : PoolQuery → Bool
  | .summary => true
  | .feeds n | .feedPages n => decide (n ≤ 127)
  | .buses n | .busPages n => decide (n ≤ 63)
  | .page n => decide (n ≤ 511)

/-- The value words (R84, R85). -/
def State.poolWords (s : State) : PoolQuery → List Word
  | .summary => s.summaryWords
  | .feeds f => (List.range' f (min 24 (Config.feeds - f))).map fun n => wordNat (s.feedPages n)
  | .buses b => (List.range' b (min 24 (Config.buses - b))).map fun n => wordNat (s.busPages n)
  | .feedPages f => wordNat (s.feedPages f) :: (s.feed f).pages.map wordNat
  | .busPages b =>
    [wordNat (s.busPages b), wordNat (s.bus b).delay, wordNat (s.bus b).index] ++ (s.bus b).pages.map wordNat
  | .page p => s.pageWords p

def State.ownReadPool (s : State) (a : Ask) (part : Nat) (number : Option Nat) : State :=
  match poolQuery? part number with
  | none => s.refuse a .badOperand []
  | some q => if q.inRange then s.reply a .ok (s.poolWords q) else s.refuse a .badIndex []

end Sys2Proof.Machine
end

