-- ==== Sys2Proof/Machine/Reset.lean ====
section
/-! DEFINITION. Reset and STARTING (R1 to R3): what the reset pin, the supplies, RESET DEVICE and the end of STARTING do. -/

namespace Sys2Proof.Machine

/-- The device held in reset or in STARTING: every piece of state at the value R2 gives, no report yet, and the cause that STARTED
will give. What the device held is lost; the commands the world still has to send are not the device's (R1, R3). -/
def State.enterStarting (s : State) (low : Bool) (cause : Nat) : State :=
  { State.reset with rstnLow := low, engine := .starting, cause := cause, reports := [], pending := s.pending }

/-- The end of STARTING: CONFIG, with the STARTED event alone in the report queue (R1, R2). -/
def State.endStarting (s : State) : State :=
  if s.engine = .starting ∧ s.rstnLow = false then
    { State.reset with cause := s.cause, reports := [startedReport s.cause], pending := s.pending }
  else s

end Sys2Proof.Machine
end

