-- ==== Sys2Proof/Machine/Control.lean ====
section
/-! DEFINITION. The control path (file 09): roles, subjects, the six steps of taking a command, waiting for a reply slot, and the control FIFO's front. -/

namespace Sys2Proof.Machine

/-! ### Roles (R159) -/

/-- What a MIX link may send. -/
def mixAllows : Instr → Bool
  | .setRouteGain _ _ _ _ | .setBusTrim _ _ _ | .setBusMute _ _ _ | .setBusMode _ _ _ _ | .cancelCues _ _ | .readFeed _ _ _
  | .readBus _ _ | .readCues _ | .readTime _ | .readLinkCounters _ _ _ => true
  | _ => false

def permitted : Role → Instr → Bool
  | .full, _ => true
  | .mix, i => mixAllows i
  | .none, _ => false

/-! ### Subjects (R162, log entry 14) -/

/-- The table unit's entry a command names: a route or a rule; the device where the table is unknown. -/
def entrySubject (table index : Nat) : Subject :=
  match table? table with
  | some .route => .route index
  | some .admission => .rule index
  | none => .device

def subjectOf : Instr → Subject
  | .setLinkFraming _ l _ | .setLinkRole _ l _ | .setReportLink _ l | .readLinkCounters _ l _ | .setDefaultRule _ l _ _ _
  | .readDefaultRule _ l _ => .link l
  | .openFeed _ f _ _ _ _ _ _ _ | .closeFeed _ f _ | .retuneFeed _ f _ _ | .setFeedTarget _ f _ | .holdFeed _ f
  | .releaseFeed _ f | .readFeed _ f _ | .ackFeedEvents _ f _ => .feed f
  | .enableBus _ b | .disableBus _ b | .setBusTrim _ b _ | .setBusMute _ b _ | .setBusMode _ b _ _ | .setBusDelay _ b _
  | .setBusLink _ b _ | .readBus _ b | .ackBusEvents _ b _ => .bus b
  | .setRouteGain _ i _ _ => .route i
  | .writeEntry _ t i | .readEntry _ t i => entrySubject t i
  | .enableRule _ i | .disableRule _ i => .rule i
  | .move _ _ _ _ _ | .fill _ _ _ _ | .scan _ _ _ _ _ _ | .clearHits _ _ _ | .suspendBlock _ | .resumeBlock _
  | .abandonBlock _ => .block
  | .cancelCues _ _ | .readCues _ => .cue
  | _ => .device

/-- What the answer to command `i` with header `h` carries, about subject `sub`. -/
def askOf (h : Hdr) (i : Instr) (sub : Subject) : Ask :=
  { link := h.link, acked := h.acked, tag := h.tag, code := i.code, subject := sub }

/-! ### Timed commands (R86, R87) -/

/-- The command as a cue would hold it; none for a kind without a timed form. -/
def cueCommand? : Instr → Option CueCommand
  | .setRouteGain _ i t n => some (.routeGain i t n)
  | .setBusTrim _ b t => some (.busTrim b t)
  | .setBusMute _ b m => some (.busMute b m)
  | .setBusMode _ b m f => some (.busMode b m f)
  | .closeFeed _ f m => some (.closeFeed f m)
  | _ => none

/-- The arrival of a timed command at the cue unit: R87's six checks in order. -/
def State.cueArrival (s : State) (i : Instr) (h : Hdr) (t : Time) : State :=
  if !permitted (s.roles.get h.link) i then s.refuse (askOf h i .device) .notPermitted []
  else if s.engine ≠ .run then s.refuse (askOf h i .device) .wrongState []
  else match cueCommand? i with
    | none => s.refuse (askOf h i .device) .notCueable []
    | some c =>
      if !h.lenOk then s.refuse (askOf h i .device) .badOperand []
      else match s.cueRefusal c with
        | some st => s.refuse (askOf h i (subjectOf i)) st []
        | none => s.insertTimed (askOf h i (subjectOf i)) t c

/-! ### Owners (R158, step 6) -/

/-- The command handed to the block that owns the state it names; a row that is no command of a control frame has no owner. -/
def State.own (s : State) (i : Instr) (a : Ask) : State :=
  match i with
  | .startEngine _ => s.ownStartEngine a
  | .stopEngine _ => s.ownStopEngine a
  | .resetDevice _ => s.enterStarting false 1
  | .setHouseRate _ r => s.ownSetHouseRate a r
  | .setHouseTime _ t => s.ownSetHouseTime a t
  | .setLinkFraming _ l k => s.ownSetLinkFraming a l k
  | .readTime _ => s.ownReadTime a
  | .setRouteGain _ i t n => s.ownSetRouteGain a i t n
  | .enableBus _ b => s.ownEnableBus a b
  | .disableBus _ b => s.ownDisableBus a b
  | .setBusTrim _ b t => s.ownSetBusTrim a b t
  | .setBusMute _ b m => s.ownSetBusMute a b m
  | .setBusMode _ b m f => s.ownSetBusMode a b m f
  | .setBusDelay _ b d => s.ownSetBusDelay a b d
  | .setBusLink _ b l => s.ownSetBusLink a b l
  | .readBus _ b => s.ownReadBus a b
  | .ackBusEvents _ b c => s.ownAckBusEvents a b c
  | .loadKernelRows _ k f n cs => s.ownLoadKernelRows a k f n cs
  | .validateKernelSet _ k => s.ownValidateKernelSet a k
  | .openFeed _ f r k p t au l st => s.ownOpenFeed a f r k p t au l st
  | .closeFeed _ f m => s.ownCloseFeed a f m
  | .retuneFeed _ f r k => s.ownRetuneFeed a f r k
  | .setFeedTarget _ f t => s.ownSetFeedTarget a f t
  | .holdFeed _ f => s.ownHoldFeed a f
  | .releaseFeed _ f => s.ownReleaseFeed a f
  | .readFeed _ f p => s.ownReadFeed a f p
  | .ackFeedEvents _ f c => s.ownAckFeedEvents a f c
  | .readPool _ p n => s.ownReadPool a p n
  | .cancelCues _ t => s.ownCancelCues a t
  | .readCues _ => s.ownReadCues a
  | .setLateTolerance _ t => s.ownSetLateTolerance a t
  | .setWindow _ w e f b m t d c => s.ownSetWindow a w e f b m t d c
  | .readWindow _ w c => s.ownReadWindow a w c
  | .setDefaultRule _ l v f c => s.ownSetDefaultRule a l v f c
  | .readDefaultRule _ l c => s.ownReadDefaultRule a l c
  | .assignBank _ b t => s.ownAssignBank a b t
  | .stageRule _ k st key w v f => s.ownStageRule a k st key w v f
  | .stageRoute _ f b p g => s.ownStageRoute a f b p g
  | .clearStaging _ => s.ownClearStaging a
  | .writeEntry _ t i => s.ownWriteEntry a t i
  | .readEntry _ t i => s.ownReadEntry a t i
  | .enableRule _ i => s.ownEnableRule a i
  | .disableRule _ i => s.ownDisableRule a i
  | .move _ t x y n => s.ownMove a t x y n
  | .fill _ t x n => s.ownFill a t x n
  | .scan _ t x n sel m => s.ownScan a t x n sel m
  | .clearHits _ x n => s.ownClearHits a x n
  | .suspendBlock _ => s.ownSuspendBlock a
  | .resumeBlock _ => s.ownResumeBlock a
  | .abandonBlock _ => s.ownAbandonBlock a
  | .setLinkRole _ l r => s.ownSetLinkRole a l r
  | .setReportLink _ l => s.ownSetReportLink a l
  | .readLinkCounters _ l c => s.ownReadLinkCounters a l c
  | .unknownCommand _ _ | .rstnLow | .rstnRelease | .powerUp | .startingEnd | .linkSample _ _ | .frameArrival _ _
  | .sampleInstant | .cueApply | .busSettle _ | .feedStart _ | .servoRun _ | .drainEnd _ | .rampEnd _ | .busFrameComplete _
  | .frameSent _ | .waitingCommandTaken _ | .moveStep | .fillStep | .scanStep | .clearHitsStep => s

/-! ### Taking a command (R158, R163) -/

def isUnknown : Instr → Bool
  | .unknownCommand _ _ => true
  | _ => false

/-- Steps 2 to 6 of R158 on command `i` with header `h`. -/
def State.take (s : State) (i : Instr) (h : Hdr) : State :=
  if isUnknown i then s.refuse (askOf h i .device) .unknownCommand []
  else match h.timed with
    | some t => s.cueArrival i h (BitVec.ofNat 48 t)
    | none =>
      if !permitted (s.roles.get h.link) i then s.refuse (askOf h i .device) .notPermitted []
      else if !h.lenOk then s.refuse (askOf h i .device) .badOperand []
      else s.own i (askOf h i (subjectOf i))

/-- R158's exception: an untimed RESET DEVICE from a link whose role is FULL, which will form no reply. -/
def State.resetsAtOnce (s : State) (i : Instr) (h : Hdr) : Bool :=
  match i with
  | .resetDevice _ => h.timed.isNone && h.lenOk && decide (s.roles.get h.link = .full)
  | _ => false

/-- Step 1 of R158: the command waits for a reply slot. -/
def State.mustWait (s : State) (i : Instr) (h : Hdr) : Bool :=
  h.acked && decide (Config.reportCapacity ≤ s.entryCount) && !s.resetsAtOnce i h

/-- The FIFO with its front command taken; a frame leaves with its last command (R156). -/
def popFront : List (List Instr) → List (List Instr)
  | [] => []
  | (_ :: c :: cs) :: fs => (c :: cs) :: fs
  | _ :: fs => fs

def State.setFifo (s : State) (l : Link) (q : List (List Instr)) : State := { s with fifos := s.fifos.set l q }

/-- The front command of a FIFO. -/
def frontCommand : List (List Instr) → Option Instr
  | (c :: _) :: _ => some c
  | _ => none

/-- A command of a control frame is due on its link (log entry 4): with nothing ahead of it the control path takes it, or it waits
at the head; as the command at the FIFO's front it is taken from there; behind other commands it joins the FIFO as a frame of
its own. No command is taken in STARTING (R1, R166). -/
def State.commandDue (s : State) (i : Instr) (h : Hdr) : State :=
  if s.engine = .starting then s
  else
    let q := s.fifos.get h.link
    if q = [] then
      if s.mustWait i h then s.setFifo h.link [[i]] else s.take i h
    else if frontCommand q = some i then
      if s.mustWait i h then s else (s.setFifo h.link (popFront q)).take i h
    else s.enqueueControl h.link [i]

/-- The acknowledged command that waits at the head of link `l`'s control path is taken, if a reply slot is free (R163). -/
def State.takeWaiting (s : State) (l : Link) : State :=
  if s.engine = .starting then s
  else
    match frontCommand (s.fifos.get l) with
    | none => s
    | some i =>
      match i.hdr? with
      | none => s
      | some h =>
        if h.acked && !s.mustWait i h then (s.setFifo l (popFront (s.fifos.get l))).take i h else s

/-- A command row: the command is due, and an idle egress starts what it made ready. -/
def State.commandRow (s : State) (i : Instr) (h : Hdr) : State := (s.commandDue i h).settle

end Sys2Proof.Machine
end

