-- ==== Sys2Proof/Machine/CommandRows.lean ====
section
/-! DEFINITION. The meanings of the commands of control frames, one for each row, and of WAITING_COMMAND_TAKEN. Each is the command come due on its link (`commandRow`): the steps of R158, then the owner's rule. -/

namespace Sys2Proof.Machine

/-- R163: the acknowledged command waiting at the head of a link's control path is taken, if a reply slot is free. -/
def execWaitingCommandTaken (link : Link) (s : State) : Host.Outcome State Fault Refusal := .next (s.takeWaiting link).settle

/-- A code the command-code table does not list (R164). -/
def execUnknownCommand (h : Hdr) (code : Nat) (s : State) : Host.Outcome State Fault Refusal :=
  .next (s.commandRow (.unknownCommand h code) h)

/-- START ENGINE (R5). -/
def execStartEngine (h : Hdr) (s : State) : Host.Outcome State Fault Refusal :=
  .next (s.commandRow (.startEngine h) h)

/-- STOP ENGINE (R6). -/
def execStopEngine (h : Hdr) (s : State) : Host.Outcome State Fault Refusal :=
  .next (s.commandRow (.stopEngine h) h)

/-- RESET DEVICE (R165). -/
def execResetDevice (h : Hdr) (s : State) : Host.Outcome State Fault Refusal :=
  .next (s.commandRow (.resetDevice h) h)

/-- SET HOUSE RATE (R9). -/
def execSetHouseRate (h : Hdr) (rate : Nat) (s : State) : Host.Outcome State Fault Refusal :=
  .next (s.commandRow (.setHouseRate h rate) h)

/-- SET HOUSE TIME (R10). -/
def execSetHouseTime (h : Hdr) (time : Nat) (s : State) : Host.Outcome State Fault Refusal :=
  .next (s.commandRow (.setHouseTime h time) h)

/-- SET LINK FRAMING (R11). -/
def execSetLinkFraming (h : Hdr) (link k : Nat) (s : State) : Host.Outcome State Fault Refusal :=
  .next (s.commandRow (.setLinkFraming h link k) h)

/-- READ TIME (R166). -/
def execReadTime (h : Hdr) (s : State) : Host.Outcome State Fault Refusal :=
  .next (s.commandRow (.readTime h) h)

/-- SET ROUTE GAIN (R15). -/
def execSetRouteGain (h : Hdr) (index target length : Nat) (s : State) : Host.Outcome State Fault Refusal :=
  .next (s.commandRow (.setRouteGain h index target length) h)

/-- ENABLE BUS (R18). -/
def execEnableBus (h : Hdr) (bus : Nat) (s : State) : Host.Outcome State Fault Refusal :=
  .next (s.commandRow (.enableBus h bus) h)

/-- DISABLE BUS (R18). -/
def execDisableBus (h : Hdr) (bus : Nat) (s : State) : Host.Outcome State Fault Refusal :=
  .next (s.commandRow (.disableBus h bus) h)

/-- SET BUS TRIM (R20). -/
def execSetBusTrim (h : Hdr) (bus trim : Nat) (s : State) : Host.Outcome State Fault Refusal :=
  .next (s.commandRow (.setBusTrim h bus trim) h)

/-- SET BUS MUTE (R20). -/
def execSetBusMute (h : Hdr) (bus mute : Nat) (s : State) : Host.Outcome State Fault Refusal :=
  .next (s.commandRow (.setBusMute h bus mute) h)

/-- SET BUS MODE (R20). -/
def execSetBusMode (h : Hdr) (bus mode solo : Nat) (s : State) : Host.Outcome State Fault Refusal :=
  .next (s.commandRow (.setBusMode h bus mode solo) h)

/-- SET BUS DELAY (R21). -/
def execSetBusDelay (h : Hdr) (bus delay : Nat) (s : State) : Host.Outcome State Fault Refusal :=
  .next (s.commandRow (.setBusDelay h bus delay) h)

/-- SET BUS LINK (R22). -/
def execSetBusLink (h : Hdr) (bus link : Nat) (s : State) : Host.Outcome State Fault Refusal :=
  .next (s.commandRow (.setBusLink h bus link) h)

/-- READ BUS (R23). -/
def execReadBus (h : Hdr) (bus : Nat) (s : State) : Host.Outcome State Fault Refusal :=
  .next (s.commandRow (.readBus h bus) h)

/-- ACK BUS EVENTS (R23). -/
def execAckBusEvents (h : Hdr) (bus clear : Nat) (s : State) : Host.Outcome State Fault Refusal :=
  .next (s.commandRow (.ackBusEvents h bus clear) h)

/-- LOAD KERNEL ROWS (R30). -/
def execLoadKernelRows (h : Hdr) (set first count : Nat) (coefs : List Int) (s : State) : Host.Outcome State Fault Refusal :=
  .next (s.commandRow (.loadKernelRows h set first count coefs) h)

/-- VALIDATE KERNEL SET (R31). -/
def execValidateKernelSet (h : Hdr) (set : Nat) (s : State) : Host.Outcome State Fault Refusal :=
  .next (s.commandRow (.validateKernelSet h set) h)

/-- OPEN FEED (R49). -/
def execOpenFeed (h : Hdr) (feed rate set pages target autoFlow returnLink : Nat) (start : Option Nat) (s : State) :
    Host.Outcome State Fault Refusal :=
  .next (s.commandRow (.openFeed h feed rate set pages target autoFlow returnLink start) h)

/-- CLOSE FEED (R53). -/
def execCloseFeed (h : Hdr) (feed mode : Nat) (s : State) : Host.Outcome State Fault Refusal :=
  .next (s.commandRow (.closeFeed h feed mode) h)

/-- RETUNE FEED (R69). -/
def execRetuneFeed (h : Hdr) (feed rate : Nat) (set : Option Nat) (s : State) : Host.Outcome State Fault Refusal :=
  .next (s.commandRow (.retuneFeed h feed rate set) h)

/-- SET FEED TARGET (R70). -/
def execSetFeedTarget (h : Hdr) (feed target : Nat) (s : State) : Host.Outcome State Fault Refusal :=
  .next (s.commandRow (.setFeedTarget h feed target) h)

/-- HOLD FEED (R66). -/
def execHoldFeed (h : Hdr) (feed : Nat) (s : State) : Host.Outcome State Fault Refusal :=
  .next (s.commandRow (.holdFeed h feed) h)

/-- RELEASE FEED (R67). -/
def execReleaseFeed (h : Hdr) (feed : Nat) (s : State) : Host.Outcome State Fault Refusal :=
  .next (s.commandRow (.releaseFeed h feed) h)

/-- READ FEED (R72). -/
def execReadFeed (h : Hdr) (feed part : Nat) (s : State) : Host.Outcome State Fault Refusal :=
  .next (s.commandRow (.readFeed h feed part) h)

/-- ACK FEED EVENTS (R73). -/
def execAckFeedEvents (h : Hdr) (feed clear : Nat) (s : State) : Host.Outcome State Fault Refusal :=
  .next (s.commandRow (.ackFeedEvents h feed clear) h)

/-- READ POOL (R83). -/
def execReadPool (h : Hdr) (part : Nat) (number : Option Nat) (s : State) : Host.Outcome State Fault Refusal :=
  .next (s.commandRow (.readPool h part number) h)

/-- CANCEL CUES (R98). -/
def execCancelCues (h : Hdr) (tag : Nat) (s : State) : Host.Outcome State Fault Refusal :=
  .next (s.commandRow (.cancelCues h tag) h)

/-- READ CUES (R99). -/
def execReadCues (h : Hdr) (s : State) : Host.Outcome State Fault Refusal :=
  .next (s.commandRow (.readCues h) h)

/-- SET LATE TOLERANCE (R93). -/
def execSetLateTolerance (h : Hdr) (tolerance : Nat) (s : State) : Host.Outcome State Fault Refusal :=
  .next (s.commandRow (.setLateTolerance h tolerance) h)

/-- SET WINDOW (R107). -/
def execSetWindow (h : Hdr) (window enabled filter base mask translate destination clear : Nat) (s : State) :
    Host.Outcome State Fault Refusal :=
  .next (s.commandRow (.setWindow h window enabled filter base mask translate destination clear) h)

/-- READ WINDOW (R108). -/
def execReadWindow (h : Hdr) (window clear : Nat) (s : State) : Host.Outcome State Fault Refusal :=
  .next (s.commandRow (.readWindow h window clear) h)

/-- SET DEFAULT RULE (R113). -/
def execSetDefaultRule (h : Hdr) (link verdict feed clear : Nat) (s : State) : Host.Outcome State Fault Refusal :=
  .next (s.commandRow (.setDefaultRule h link verdict feed clear) h)

/-- READ DEFAULT RULE (R113). -/
def execReadDefaultRule (h : Hdr) (link clear : Nat) (s : State) : Host.Outcome State Fault Refusal :=
  .next (s.commandRow (.readDefaultRule h link clear) h)

/-- ASSIGN BANK (R119). -/
def execAssignBank (h : Hdr) (bank table : Nat) (s : State) : Host.Outcome State Fault Refusal :=
  .next (s.commandRow (.assignBank h bank table) h)

/-- STAGE RULE (R121). -/
def execStageRule (h : Hdr) (kind state : Nat) (key : NarrowKey) (wide : Option WideKey) (verdict feed : Nat) (s :
    State) : Host.Outcome State Fault Refusal :=
  .next (s.commandRow (.stageRule h kind state key wide verdict feed) h)

/-- STAGE ROUTE (R122). -/
def execStageRoute (h : Hdr) (feed bus polarity gain : Nat) (s : State) : Host.Outcome State Fault Refusal :=
  .next (s.commandRow (.stageRoute h feed bus polarity gain) h)

/-- CLEAR STAGING (R122). -/
def execClearStaging (h : Hdr) (s : State) : Host.Outcome State Fault Refusal :=
  .next (s.commandRow (.clearStaging h) h)

/-- WRITE ENTRY (R123). -/
def execWriteEntry (h : Hdr) (table index : Nat) (s : State) : Host.Outcome State Fault Refusal :=
  .next (s.commandRow (.writeEntry h table index) h)

/-- READ ENTRY (R126). -/
def execReadEntry (h : Hdr) (table index : Nat) (s : State) : Host.Outcome State Fault Refusal :=
  .next (s.commandRow (.readEntry h table index) h)

/-- ENABLE RULE (R127). -/
def execEnableRule (h : Hdr) (index : Nat) (s : State) : Host.Outcome State Fault Refusal :=
  .next (s.commandRow (.enableRule h index) h)

/-- DISABLE RULE (R127). -/
def execDisableRule (h : Hdr) (index : Nat) (s : State) : Host.Outcome State Fault Refusal :=
  .next (s.commandRow (.disableRule h index) h)

/-- MOVE (R131). -/
def execMove (h : Hdr) (table source dest count : Nat) (s : State) : Host.Outcome State Fault Refusal :=
  .next (s.commandRow (.move h table source dest count) h)

/-- FILL (R133). -/
def execFill (h : Hdr) (table first count : Nat) (s : State) : Host.Outcome State Fault Refusal :=
  .next (s.commandRow (.fill h table first count) h)

/-- SCAN (R134). -/
def execScan (h : Hdr) (table first count selector mode : Nat) (s : State) : Host.Outcome State Fault Refusal :=
  .next (s.commandRow (.scan h table first count selector mode) h)

/-- CLEAR HITS (R135). -/
def execClearHits (h : Hdr) (first count : Nat) (s : State) : Host.Outcome State Fault Refusal :=
  .next (s.commandRow (.clearHits h first count) h)

/-- SUSPEND BLOCK (R136). -/
def execSuspendBlock (h : Hdr) (s : State) : Host.Outcome State Fault Refusal :=
  .next (s.commandRow (.suspendBlock h) h)

/-- RESUME BLOCK (R136). -/
def execResumeBlock (h : Hdr) (s : State) : Host.Outcome State Fault Refusal :=
  .next (s.commandRow (.resumeBlock h) h)

/-- ABANDON BLOCK (R137). -/
def execAbandonBlock (h : Hdr) (s : State) : Host.Outcome State Fault Refusal :=
  .next (s.commandRow (.abandonBlock h) h)

/-- SET LINK ROLE (R160). -/
def execSetLinkRole (h : Hdr) (link role : Nat) (s : State) : Host.Outcome State Fault Refusal :=
  .next (s.commandRow (.setLinkRole h link role) h)

/-- SET REPORT LINK (R161). -/
def execSetReportLink (h : Hdr) (link : Nat) (s : State) : Host.Outcome State Fault Refusal :=
  .next (s.commandRow (.setReportLink h link) h)

/-- READ LINK COUNTERS (R150). -/
def execReadLinkCounters (h : Hdr) (link clear : Nat) (s : State) : Host.Outcome State Fault Refusal :=
  .next (s.commandRow (.readLinkCounters h link clear) h)

end Sys2Proof.Machine
end

