-- ==== Sys2Proof/Machine/EventRows.lean ====
section
/-! DEFINITION. The meanings of the rows that are the device's own: pins and start-up, link interfaces, the parts of a sample instant, the egress, and the entry steps of the block operation. -/

namespace Sys2Proof.Machine

/-! ### Pins and start-up (R1) -/

/-- RSTN goes low: the device is held in reset; egress sends nothing and no frame is taken (log entry 18). -/
def execRstnLow (s : State) : Host.Outcome State Fault Refusal := .next (s.enterStarting true 0)

/-- RSTN rises: the device enters STARTING. -/
def execRstnRelease (s : State) : Host.Outcome State Fault Refusal := .next (s.enterStarting false 0)

/-- Supplies come up with RSTN high: the device enters STARTING. -/
def execPowerUp (s : State) : Host.Outcome State Fault Refusal := .next (s.enterStarting false 0)

/-- STARTING ends; the row changes nothing outside STARTING or while RSTN is low. -/
def execStartingEnd (s : State) : Host.Outcome State Fault Refusal := .next s.endStarting

/-! ### Link interfaces (R140 to R147) -/

/-- The sample of one millisecond on a link; in STARTING there is none (R140). -/
def execLinkSample (l : Link) (present : Bool) (s : State) : Host.Outcome State Fault Refusal :=
  .next (if s.engine = .starting then s else (s.linkSample l present).settle)

/-- A frame completes on a link's ingress; in STARTING it is discarded, not counted (R1, R144). -/
def execFrameArrival (l : Link) (bytes : List Byte) (s : State) : Host.Outcome State Fault Refusal :=
  .next (if s.engine = .starting then s else (s.frameArrives l bytes).settle)

/-! ### The sample instant (R12) and its parts (log entry 15) -/

/-- The instant in progress finished, or a whole instant; in RUN only. -/
def execSampleInstant (s : State) : Host.Outcome State Fault Refusal := .next s.sampleInstant.settle

/-- The first stage of an instant (R94); nothing where one is already in progress or outside RUN. -/
def execCueApply (s : State) : Host.Outcome State Fault Refusal :=
  .next (if s.engine = .run then s.inInstant.settle else s)

/-- A part of the instant in progress, or of a new one, that belongs to number `n`: the work before it is `upTo n`, and where
`place` then shows that number next and the event `occurs`, the work goes on through it. Otherwise nothing changes. -/
def State.instantPart (s : State) (upTo : Nat → State → State) (place : InstantWork → Nat) (occurs : State → Bool) (n : Nat) :
    State :=
  if s.engine = .run then
    let t := upTo n s.inInstant
    if decide (place t.work = n) && occurs t then (upTo (n + 1) t).settle else s
  else s

/-- Bus `b` settles at this instant. -/
def State.busSettles (s : State) (b : Nat) : Bool :=
  decide ((s.bus b).state = .enabling ∨ (s.bus b).state = .disabling) && s.settlesNow (s.bus b).link

/-- The second stage through bus `b`, if the bus settles at this instant (R19). -/
def execBusSettle (b : Nat) (s : State) : Host.Outcome State Fault Refusal :=
  .next (s.instantPart State.settleTo InstantWork.nextBus (fun t => decide (b < Config.buses) && t.busSettles b) b)

/-- Feed `f` becomes RUNNING at its start evaluation. -/
def State.feedStarts (s : State) (f : Nat) : Bool :=
  decide ((s.feed f).state ≠ .running) && decide (((s.startEval f).feed f).state = .running)

/-- The third stage through feed `f`'s one step, if the feed starts at this instant (R51, R52). -/
def execFeedStart (f : Nat) (s : State) : Host.Outcome State Fault Refusal :=
  .next (s.instantPart State.feedsTo InstantWork.nextFeed (fun t => decide (f < Config.feeds) && t.feedStarts f) f)

/-- Feed `f`'s servo runs at this instant (R43). -/
def State.servoRuns (s : State) (f : Nat) : Bool :=
  decide (((s.startEval f).feed f).state = .running) && decide (s.houseTime.toNat % 256 = 0)

/-- The third stage through feed `f`'s one step, if its servo runs at this instant (R43). -/
def execServoRun (f : Nat) (s : State) : Host.Outcome State Fault Refusal :=
  .next (s.instantPart State.feedsTo InstantWork.nextFeed (fun t => decide (f < Config.feeds) && t.servoRuns f) f)

/-- Feed `f` is DRAINING with fewer samples than its carry. -/
def State.drainEnds (s : State) (f : Nat) : Bool :=
  decide ((s.feed f).state = .draining) && decide ((s.feed f).fill < (s.feed f).carry)

/-- The third stage through feed `f`'s one step, if its drain ends at this instant (R55). -/
def execDrainEnd (f : Nat) (s : State) : Host.Outcome State Fault Refusal :=
  .next (s.instantPart State.feedsTo InstantWork.nextFeed (fun t => decide (f < Config.feeds) && t.drainEnds f) f)

/-- The ramp of the route at index `i` reaches its end at this instant's advance. -/
def State.rampEnds (s : State) (i : Nat) : Bool :=
  match s.routeAt i with
  | some r => decide (r.remaining = 1)
  | none => false

/-- The fourth stage through route index `i`, if its ramp ends at this instant (R16). -/
def execRampEnd (i : Nat) (s : State) : Host.Outcome State Fault Refusal :=
  .next
    (s.instantPart State.routesTo InstantWork.nextRoute (fun t => decide (i < t.tableSize .route) && t.rampEnds i) i)

/-- Link `l`'s assembly is complete with this instant's samples, and has a bus. -/
def State.frameCompletes (s : State) (l : Link) : Bool :=
  let k := s.framing.get l
  match s.begunAssembly l with
  | some asm => decide (asm.rows.length + 1 = k) && decide (asm.buses ≠ [])
  | none => false

/-- The sixth stage through link `l`, if its bus frame is complete at this instant (R176). -/
def execBusFrameComplete (l : Link) (s : State) : Host.Outcome State Fault Refusal :=
  .next (s.instantPart State.handTo InstantWork.nextLink (fun t => t.frameCompletes l) l.num)

/-! ### The egress (R175) -/

/-- The frame link `l` sends has left, and the arbiter chooses the next. -/
def execFrameSent (l : Link) (s : State) : Host.Outcome State Fault Refusal := .next (s.frameLeft l).settle

/-! ### Entry steps (R129, R132 to R135) -/

def execMoveStep (s : State) : Host.Outcome State Fault Refusal := .next (s.blockStep .move State.moveStep).settle

def execFillStep (s : State) : Host.Outcome State Fault Refusal := .next (s.blockStep .fill State.fillStep).settle

def execScanStep (s : State) : Host.Outcome State Fault Refusal := .next (s.blockStep .scan State.scanStep).settle

def execClearHitsStep (s : State) : Host.Outcome State Fault Refusal :=
  .next (s.blockStep .clearHits State.clearHitsStep).settle

end Sys2Proof.Machine
end

