-- ==== Sys2Proof/Machine/Dispatch.lean ====
section
/-! DEFINITION. exec: one arm per constructor of Instr, each one call of its meaning. -/

namespace Sys2Proof.Machine

def exec (i : Instr) (s : State) : Host.Outcome State Fault Refusal :=
  match i with
  | .rstnLow => Sys2Proof.Machine.execRstnLow s
  | .rstnRelease => Sys2Proof.Machine.execRstnRelease s
  | .powerUp => Sys2Proof.Machine.execPowerUp s
  | .startingEnd => Sys2Proof.Machine.execStartingEnd s
  | .linkSample link present => Sys2Proof.Machine.execLinkSample link present s
  | .frameArrival link bytes => Sys2Proof.Machine.execFrameArrival link bytes s
  | .sampleInstant => Sys2Proof.Machine.execSampleInstant s
  | .cueApply => Sys2Proof.Machine.execCueApply s
  | .busSettle bus => Sys2Proof.Machine.execBusSettle bus s
  | .feedStart feed => Sys2Proof.Machine.execFeedStart feed s
  | .servoRun feed => Sys2Proof.Machine.execServoRun feed s
  | .drainEnd feed => Sys2Proof.Machine.execDrainEnd feed s
  | .rampEnd index => Sys2Proof.Machine.execRampEnd index s
  | .busFrameComplete link => Sys2Proof.Machine.execBusFrameComplete link s
  | .frameSent link => Sys2Proof.Machine.execFrameSent link s
  | .waitingCommandTaken link => Sys2Proof.Machine.execWaitingCommandTaken link s
  | .moveStep => Sys2Proof.Machine.execMoveStep s
  | .fillStep => Sys2Proof.Machine.execFillStep s
  | .scanStep => Sys2Proof.Machine.execScanStep s
  | .clearHitsStep => Sys2Proof.Machine.execClearHitsStep s
  | .unknownCommand h code => Sys2Proof.Machine.execUnknownCommand h code s
  | .startEngine h => Sys2Proof.Machine.execStartEngine h s
  | .stopEngine h => Sys2Proof.Machine.execStopEngine h s
  | .resetDevice h => Sys2Proof.Machine.execResetDevice h s
  | .setHouseRate h rate => Sys2Proof.Machine.execSetHouseRate h rate s
  | .setHouseTime h time => Sys2Proof.Machine.execSetHouseTime h time s
  | .setLinkFraming h link k => Sys2Proof.Machine.execSetLinkFraming h link k s
  | .readTime h => Sys2Proof.Machine.execReadTime h s
  | .setRouteGain h index target length => Sys2Proof.Machine.execSetRouteGain h index target length s
  | .enableBus h bus => Sys2Proof.Machine.execEnableBus h bus s
  | .disableBus h bus => Sys2Proof.Machine.execDisableBus h bus s
  | .setBusTrim h bus trim => Sys2Proof.Machine.execSetBusTrim h bus trim s
  | .setBusMute h bus mute => Sys2Proof.Machine.execSetBusMute h bus mute s
  | .setBusMode h bus mode solo => Sys2Proof.Machine.execSetBusMode h bus mode solo s
  | .setBusDelay h bus delay => Sys2Proof.Machine.execSetBusDelay h bus delay s
  | .setBusLink h bus link => Sys2Proof.Machine.execSetBusLink h bus link s
  | .readBus h bus => Sys2Proof.Machine.execReadBus h bus s
  | .ackBusEvents h bus clear => Sys2Proof.Machine.execAckBusEvents h bus clear s
  | .loadKernelRows h set first count coefs => Sys2Proof.Machine.execLoadKernelRows h set first count coefs s
  | .validateKernelSet h set => Sys2Proof.Machine.execValidateKernelSet h set s
  | .openFeed h feed rate set pages target autoFlow returnLink start => Sys2Proof.Machine.execOpenFeed h feed rate set pages target autoFlow returnLink start s
  | .closeFeed h feed mode => Sys2Proof.Machine.execCloseFeed h feed mode s
  | .retuneFeed h feed rate set => Sys2Proof.Machine.execRetuneFeed h feed rate set s
  | .setFeedTarget h feed target => Sys2Proof.Machine.execSetFeedTarget h feed target s
  | .holdFeed h feed => Sys2Proof.Machine.execHoldFeed h feed s
  | .releaseFeed h feed => Sys2Proof.Machine.execReleaseFeed h feed s
  | .readFeed h feed part => Sys2Proof.Machine.execReadFeed h feed part s
  | .ackFeedEvents h feed clear => Sys2Proof.Machine.execAckFeedEvents h feed clear s
  | .readPool h part number => Sys2Proof.Machine.execReadPool h part number s
  | .cancelCues h tag => Sys2Proof.Machine.execCancelCues h tag s
  | .readCues h => Sys2Proof.Machine.execReadCues h s
  | .setLateTolerance h tolerance => Sys2Proof.Machine.execSetLateTolerance h tolerance s
  | .setWindow h window enabled filter base mask translate destination clear => Sys2Proof.Machine.execSetWindow h window enabled filter base mask translate destination clear s
  | .readWindow h window clear => Sys2Proof.Machine.execReadWindow h window clear s
  | .setDefaultRule h link verdict feed clear => Sys2Proof.Machine.execSetDefaultRule h link verdict feed clear s
  | .readDefaultRule h link clear => Sys2Proof.Machine.execReadDefaultRule h link clear s
  | .assignBank h bank table => Sys2Proof.Machine.execAssignBank h bank table s
  | .stageRule h kind state key wide verdict feed => Sys2Proof.Machine.execStageRule h kind state key wide verdict feed s
  | .stageRoute h feed bus polarity gain => Sys2Proof.Machine.execStageRoute h feed bus polarity gain s
  | .clearStaging h => Sys2Proof.Machine.execClearStaging h s
  | .writeEntry h table index => Sys2Proof.Machine.execWriteEntry h table index s
  | .readEntry h table index => Sys2Proof.Machine.execReadEntry h table index s
  | .enableRule h index => Sys2Proof.Machine.execEnableRule h index s
  | .disableRule h index => Sys2Proof.Machine.execDisableRule h index s
  | .move h table source dest count => Sys2Proof.Machine.execMove h table source dest count s
  | .fill h table first count => Sys2Proof.Machine.execFill h table first count s
  | .scan h table first count selector mode => Sys2Proof.Machine.execScan h table first count selector mode s
  | .clearHits h first count => Sys2Proof.Machine.execClearHits h first count s
  | .suspendBlock h => Sys2Proof.Machine.execSuspendBlock h s
  | .resumeBlock h => Sys2Proof.Machine.execResumeBlock h s
  | .abandonBlock h => Sys2Proof.Machine.execAbandonBlock h s
  | .setLinkRole h link role => Sys2Proof.Machine.execSetLinkRole h link role s
  | .setReportLink h link => Sys2Proof.Machine.execSetReportLink h link s
  | .readLinkCounters h link clear => Sys2Proof.Machine.execReadLinkCounters h link clear s

end Sys2Proof.Machine
end

