-- ==== Sys2Proof/Machine/Step.lean ====
section
/-! DEFINITION. One step: the command at the front of the queue is taken and carried out. -/

namespace Sys2Proof.Machine

/-- The state in which the command at the front of the queue runs: the queue holds the rest. -/
def State.withPending (s : State) (rest : List Instr) : State := { s with pending := rest }

/-- Take the command at the front of the queue; on an empty queue the device idles (log entry 4). -/
def step (s : State) : Host.Outcome State Fault Refusal :=
  match s.pending with
  | [] => .next s
  | c :: rest => exec c (s.withPending rest)

/-- The command that a word spells put at the front of the queue; `s` where it spells none (log entry 3). -/
def State.withFetchWord (s : State) (nbits w : Nat) : State :=
  match decodeTableWord nbits w with
  | some c => s.withPending (c :: s.pending)
  | none => s

end Sys2Proof.Machine
end

