-- ==== Sys2Proof/Safety.lean ====
section
/-! DEFINITION. What a run may rely on: when a command is taken, and the invariants that every step keeps. -/

namespace Sys2Proof.Machine

/-! ### When a command is taken (R157, R158, R163) -/

/-- Command `i` with header `h` is next on its link and need not wait: the device is out of STARTING, nothing stands ahead of it in
the control FIFO, and a reply slot is free if it needs one. -/
abbrev State.Takes (s : State) (i : Instr) (h : Hdr) : Prop :=
  i.hdr? = some h ∧ s.engine ≠ .starting ∧
    (s.fifos.get h.link = [] ∨ frontCommand (s.fifos.get h.link) = some i) ∧ s.mustWait i h = false

/-- A command that is taken, is untimed, is allowed by its link's role, and has a length its operands can have: it reaches its
owner (R158, step 6). -/
abbrev State.Ready (s : State) (i : Instr) (h : Hdr) : Prop :=
  s.Takes i h ∧ isUnknown i = false ∧ h.timed = none ∧ permitted (s.roles.get h.link) i = true ∧ h.lenOk = true

/-- The device as the owner of a command with header `h` finds it: the command has left its FIFO. -/
def State.handed (s : State) (h : Hdr) : State := s.setFifo h.link (popFront (s.fifos.get h.link))

/-- The device as the mix engine finds it: an instant in progress is finished first (R12). -/
def State.handedBetween (s : State) (h : Hdr) : State := (s.handed h).finishInstant

/-! ### Invariants -/

/-- Every numbered store is in its canonical form, sample memory included. -/
abbrev State.Canonical (s : State) : Prop :=
  Cells.wf Bus.initial s.buses ∧ Cells.wf KernelSet.initial s.kernels ∧ Cells.wf Feed.initial s.feeds ∧
    Cells.wf Owner.free s.owners ∧ Memory.wf s.memory ∧ Cells.wf Window.initial s.windows ∧ Cells.wf Slot.empty s.slots

/-- R168, R169: at most 64 entries, and the held place stands exactly while a block operation of an acknowledged command does. -/
abbrev State.ReportsBounded (s : State) : Prop :=
  s.entryCount ≤ Config.reportCapacity ∧ s.heldPlace = s.block.any (·.acked)

/-- R156, R174, R177, R178: the queues and credits of one link lie within their bounds. -/
abbrev State.LinkBounded (s : State) (l : Link) : Prop :=
  (s.fifos.get l).length ≤ Config.fifoCapacity ∧ (s.arb l).flowQueue.length ≤ Config.flowCapacity ∧
    (s.arb l).passQueue.length ≤ Config.passCapacity ∧ (s.arb l).passCredit ≤ 255 ∧ (s.arb l).reportCredit ≤ 255

/-- R91, R100: at most 256 cues, in order of activation time, and none outside RUN. -/
abbrev State.CuesOrdered (s : State) : Prop :=
  s.cues.length ≤ Config.cueCapacity ∧ s.cues.Pairwise (fun c d => c.time ≤ d.time) ∧ (s.engine ≠ .run → s.cues = [])

/-- R38, R43: the position fraction lies in 0 to 2^24 − 1, and the step within N ± floor(N / 1,024). -/
abbrev Feed.StepBounded (f : Feed) : Prop :=
  f.position < 16777216 ∧ f.step = f.nominal + f.correction ∧ -(correctionLimit f.nominal : Int) ≤ f.correction ∧
    f.correction ≤ correctionLimit f.nominal

/-- R46: the fill lies within the capacity, the write index is the read index plus the fill modulo the capacity, and a CLOSED
feed holds no pages and has fill 0. -/
abbrev Feed.BufferBounded (f : Feed) : Prop :=
  f.fill ≤ f.capacity ∧ f.writeIndex = (f.readIndex + f.fill) % f.capacity ∧ (f.state = .closed → f.pages = [] ∧ f.fill = 0)

/-- Only feeds 0 to 127 are ever open, and each buffer is in order (R45, R46). -/
abbrev State.FeedsBounded (s : State) : Prop :=
  (∀ n, (s.feed n).BufferBounded) ∧ ∀ n, Config.feeds ≤ n → (s.feed n).state = .closed

/-- R79: a page's owner record is FREE exactly when it is on the free list, and names a feed or a bus exactly when it stands in that
holder's list; it stands there once; and free and held pages number 512. -/
abbrev State.PoolAgrees (s : State) : Prop :=
  s.freeList.Nodup ∧ (∀ p, s.owner p = .free ↔ p ∈ s.freeList ∨ Config.pages ≤ p) ∧ (∀ p ∈ s.freeList, p < Config.pages) ∧
    (∀ n, (s.feed n).pages.Nodup ∧ ∀ p, s.owner p = .feed n ↔ p ∈ (s.feed n).pages) ∧
    (∀ b, (s.bus b).pages.Nodup ∧ ∀ p, s.owner p = .bus b ↔ p ∈ (s.bus b).pages) ∧
    (∀ b, Config.buses ≤ b → (s.bus b).pages = []) ∧
    s.freeList.length + s.pagesInFeeds + s.pagesInLines = Config.pages

/-- R32: a set's in-use count is the number of feeds not CLOSED that name it, and every such feed names a READY set. -/
abbrev State.KernelsCounted (s : State) : Prop :=
  (∀ k, (s.kernel k).inUse =
      (List.range Config.feeds).countP fun n => decide ((s.feed n).state ≠ .closed ∧ (s.feed n).kernel = k)) ∧
    ∀ n, (s.feed n).state ≠ .closed → (s.kernel (s.feed n).kernel).state = .ready

/-- R118, R119: no bank stands twice in the assignment lists, and the slots of every other bank are EMPTY. -/
abbrev State.BanksApart (s : State) : Prop :=
  (s.admissionBanks ++ s.routeBanks).Nodup ∧
    ∀ k, k / Config.bankSlots ∉ s.admissionBanks ++ s.routeBanks → s.slot k = .empty

/-- R124: a wide rule stands at an even index with its continuation above it, a continuation never stands without its head, and no
route stands in the admission table. -/
abbrev State.RulesWhole (s : State) : Prop :=
  ∀ i, i < s.tableSize .admission →
    (∀ r, s.entry .admission i = .wideHead r → i % 2 = 0 ∧ ∃ w, s.entry .admission (i + 1) = .continuation w) ∧
    (∀ w, s.entry .admission i = .continuation w → i % 2 = 1 ∧ ∃ r, s.entry .admission (i - 1) = .wideHead r) ∧
    ∀ r, s.entry .admission i ≠ .route r

/-- R125: a slot of the route table is EMPTY or ACTIVE, and no two ACTIVE routes carry the same feed and the same bus. -/
abbrev State.RoutesDistinct (s : State) : Prop :=
  (∀ i, i < s.tableSize .route → s.entry .route i = .empty ∨ ∃ r, s.entry .route i = .route r) ∧
    ∀ i j r q, i < s.tableSize .route → j < s.tableSize .route → s.routeAt i = some r → s.routeAt j = some q →
      r.feed = q.feed → r.bus = q.bus → i = j

/-- R130, R131, R133: what a starting command has checked of its operation stays true of its context. -/
abbrev State.BlockSound (s : State) (b : Block) : Prop :=
  1 ≤ b.remaining ∧ b.first + b.count ≤ s.tableSize b.table ∧
    (if b.descending then b.next + 1 = b.first + b.remaining else b.next + b.remaining = b.first + b.count) ∧
    b.remaining ≤ b.count ∧
    (b.kind = .move → 0 ≤ (b.first : Int) + b.offset ∧ (b.first : Int) + b.count + b.offset ≤ s.tableSize b.table ∧ b.offset ≠ 0 ∧
      (b.table = .admission → b.offset % 2 = 0)) ∧
    (b.kind = .fill → b.image.fits b.table = true ∧ (b.table = .route → b.image = .empty) ∧
      (b.image.isWide = true → b.next % 2 = 0 ∧ b.remaining % 2 = 0)) ∧
    (b.kind = .fill ∨ b.kind = .scan ∨ b.kind = .clearHits → b.descending = false) ∧
    (b.kind = .clearHits → b.table = .admission)

/-- The tables are whole: banks, rules, routes, and the block context that may move them. -/
abbrev State.TablesWhole (s : State) : Prop :=
  s.BanksApart ∧ s.RulesWhole ∧ s.RoutesDistinct ∧ ∀ b, s.block = some b → s.BlockSound b

end Sys2Proof.Machine
end

