-- ==== Sys2Proof/WellFormed.lean ====
section
/-! DEFINITION. Which terms of `Instr` are commands the device can meet: every operand fits the bytes R152 gives it, and every row of the device's own names a bus, feed or route that exists. -/

namespace Sys2Proof

/-- The value fits one byte. -/
def fits1 (n : Nat) : Bool := decide (n < 256)
/-- The value fits two bytes. -/
def fits2 (n : Nat) : Bool := decide (n < 65536)
/-- The value fits a house time. -/
def fits6 (n : Nat) : Bool := decide (n < 281474976710656)
/-- The value fits three bytes, signed. -/
def fits3s (x : Int) : Bool := decide (-8388608 ≤ x ∧ x ≤ 8388607)

/-- A header's tag and activation time fit their fields. -/
def Hdr.fits (h : Hdr) : Bool :=
  fits2 h.tag && (match h.timed with | some t => fits6 t | none => true)

def NarrowKey.fits (k : NarrowKey) : Bool :=
  fits1 k.linkV && fits1 k.linkC && fits2 k.streamV && fits2 k.streamC && fits1 k.classV && fits1 k.classC

def WideKey.fits (k : WideKey) : Bool :=
  fits1 k.programV && fits1 k.programC && fits1 k.languageV && fits1 k.languageC && fits1 k.rateV && fits1 k.rateC

/-- The codes of the command-code table (file 08). -/
def knownCode (c : Nat) : Bool :=
  (1 ≤ c && c ≤ 7) || (0x10 ≤ c && c ≤ 0x19) || (0x20 ≤ c && c ≤ 0x2A) || (0x30 ≤ c && c ≤ 0x32) ||
    (0x38 ≤ c && c ≤ 0x3B) || (0x40 ≤ c && c ≤ 0x4E) || (0x50 ≤ c && c ≤ 0x52)

/-- Every operand fits its bytes. -/
def Instr.operandsFit : Instr → Bool
  | .unknownCommand _ c => fits1 c && !knownCode c
  | .setHouseRate _ r => decide (r < 4294967296)
  | .setHouseTime _ t => fits6 t
  | .setRouteGain _ i t n => fits2 i && fits2 t && fits2 n
  | .enableBus _ b | .disableBus _ b | .readBus _ b => fits1 b
  | .setBusTrim _ b t => fits1 b && fits2 t
  | .setBusMode _ b m f => fits1 b && fits1 m && fits1 f
  | .setBusDelay _ b d => fits1 b && fits2 d
  | .setBusMute _ b x | .setBusLink _ b x | .ackBusEvents _ b x => fits1 b && fits1 x
  | .loadKernelRows _ s f n cs =>
    fits1 s && fits1 f && fits1 n && cs.all fits3s &&
      (cs.length == 16 || cs.length == 32 || cs.length == 48 || cs.length == 64)
  | .validateKernelSet _ s => fits1 s
  | .openFeed _ f r k p t a l st =>
    fits1 f && fits1 r && fits1 k && fits1 p && fits2 t && fits1 a && fits1 l &&
      (match st with | some x => fits6 x | none => true)
  | .closeFeed _ f x | .readFeed _ f x | .ackFeedEvents _ f x => fits1 f && fits1 x
  | .retuneFeed _ f r k => fits1 f && fits1 r && (match k with | some x => fits1 x | none => true)
  | .setFeedTarget _ f t => fits1 f && fits2 t
  | .holdFeed _ f | .releaseFeed _ f => fits1 f
  | .readPool _ p n => fits1 p && (match n with | some x => fits2 x | none => true)
  | .cancelCues _ t | .setLateTolerance _ t => fits2 t
  | .setWindow _ w e f b m t d c =>
    fits1 w && fits1 e && fits1 f && fits2 b && fits2 m && fits2 t && fits1 d && fits1 c
  | .setDefaultRule _ l v f c => fits1 l && fits1 v && fits1 f && fits1 c
  | .stageRule _ k s key w v f =>
    fits1 k && fits1 s && key.fits && (match w with | some x => x.fits | none => true) && fits1 v && fits1 f
  | .stageRoute _ f b p g => fits1 f && fits1 b && fits1 p && fits2 g
  | .writeEntry _ t i | .readEntry _ t i => fits1 t && fits2 i
  | .enableRule _ i | .disableRule _ i => fits2 i
  | .move _ t a b n => fits1 t && fits2 a && fits2 b && fits2 n
  | .fill _ t a n => fits1 t && fits2 a && fits2 n
  | .scan _ t a n s m => fits1 t && fits2 a && fits2 n && fits2 s && fits1 m
  | .clearHits _ a n => fits2 a && fits2 n
  | .setReportLink _ l => fits1 l
  | .setLinkFraming _ a b | .readWindow _ a b | .readDefaultRule _ a b | .assignBank _ a b | .setLinkRole _ a b
  | .readLinkCounters _ a b => fits1 a && fits1 b
  | .busSettle b => decide (b < Config.buses)
  | .feedStart f | .servoRun f | .drainEnd f => decide (f < Config.feeds)
  | .rampEnd i => decide (i < Config.banks * Config.bankSlots)
  | .startEngine _ | .stopEngine _ | .resetDevice _ | .readTime _ | .readCues _ | .clearStaging _ | .suspendBlock _
  | .resumeBlock _ | .abandonBlock _ | .rstnLow | .rstnRelease | .powerUp | .startingEnd | .linkSample _ _
  | .frameArrival _ _ | .sampleInstant | .cueApply | .busFrameComplete _ | .frameSent _ | .waitingCommandTaken _
  | .moveStep | .fillStep | .scanStep | .clearHitsStep => true

/-- A well-formed command: its header fits, and so do its operands where its length is good (a bad length leaves none to read). -/
def Instr.wellFormed (i : Instr) : Bool :=
  match i.hdr? with
  | some h => h.fits && (!h.lenOk || i.operandsFit)
  | none => i.operandsFit

end Sys2Proof
end

