-- ==== Sys2Proof/Certificates/Slice0/Obligations.lean ====
section
/-! DEFINITION. The statements for the provers. In each, `h` is the header of a command, `s.handed h` the device as the command's owner finds it, and `s.handedBetween h` as the mix engine finds it, with an instant in progress finished (R12). `settle` is R175's start of a ready frame on an idle egress, at the end of the step (log
entry 5). -/

open Sys2Proof Sys2Proof.Machine

/-! ### Steps and the control path (file 09) -/

/-- A step takes the command at the front of the queue and carries it out on the device with the queue's rest; on an empty queue
nothing changes (log entry 4). -/
def Obligations.StepRunsFrontCommand : Prop :=
  (∀ (c : Instr) (rest : List Instr) (s : State), s.pending = c :: rest → step s = exec c { s with pending := rest }) ∧
    ∀ s : State, s.pending = [] → step s = .next s

/-- What a command row does, by what stands on its link (R156, R157, R163, log entry 4): in STARTING nothing; next on its link and
free to go, it is taken; next but in need of a reply slot that is not free, it waits; behind other commands it joins the FIFO. An
acknowledged command waits at 64 entries, a held place among them, save an untimed RESET DEVICE of good length from a FULL link
(that one of a bad length waits is log entry 17). WAITING_COMMAND_TAKEN, the row that takes a command when a place frees (log entry
7): the acknowledged command at the front of a link's FIFO is taken if a reply slot is free, and goes on waiting if none is. -/
def Obligations.CommandRowsFollowTheControlPath : Prop :=
  (∀ (i : Instr) (h : Hdr) (s : State), i.hdr? = some h →
    (s.mustWait i h = true ↔
      h.acked = true ∧ 64 ≤ s.reports.length + (if s.heldPlace then 1 else 0) ∧
        ¬ ((∃ g, i = .resetDevice g) ∧ h.timed = none ∧ h.lenOk = true ∧ s.roles.get h.link = .full)) ∧
    (s.engine = .starting → exec i s = .next s.settle) ∧
    (s.Takes i h → exec i s = .next ((s.handed h).take i h).settle) ∧
    (s.engine ≠ .starting → s.fifos.get h.link = [] → s.mustWait i h = true →
      exec i s = .next (s.setFifo h.link [[i]]).settle) ∧
    (s.engine ≠ .starting → frontCommand (s.fifos.get h.link) = some i → s.mustWait i h = true → exec i s = .next s.settle) ∧
    (s.engine ≠ .starting → s.fifos.get h.link ≠ [] → frontCommand (s.fifos.get h.link) ≠ some i →
      exec i s = .next (s.enqueueControl h.link [i]).settle)) ∧
  ∀ (l : Link) (i : Instr) (h : Hdr) (s : State),
    s.engine ≠ .starting → frontCommand (s.fifos.get l) = some i → i.hdr? = some h → h.acked = true →
      (s.mustWait i h = false →
        exec (.waitingCommandTaken l) s = .next (((s.setFifo l (popFront (s.fifos.get l))).take i h).settle)) ∧
      (s.mustWait i h = true → exec (.waitingCommandTaken l) s = .next s.settle)

/-- Steps 2 to 6 of R158 in their order, on a command that is taken: a code the table does not list, whatever its flags, operands
and link role (R164); a timed command, which goes to the cue unit; the link's role; the operand length; and its owner. What the roles
allow (R159): FULL every command, NONE no command, and MIX the ten that are named. -/
def Obligations.CommandsAreJudgedInOrder : Prop :=
  (∀ (h : Hdr) (code : Nat) (s : State), s.Takes (.unknownCommand h code) h →
    exec (.unknownCommand h code) s =
      .next (((s.handed h).refuse { link := h.link, acked := h.acked, tag := h.tag, code := code, subject := .device }
        .unknownCommand []).settle)) ∧
  (∀ (i : Instr) (h : Hdr) (s : State), s.Takes i h → isUnknown i = false →
    (∀ t, h.timed = some t → exec i s = .next (((s.handed h).cueArrival i h (BitVec.ofNat 48 t)).settle)) ∧
    (h.timed = none → permitted (s.roles.get h.link) i = false →
      exec i s = .next (((s.handed h).refuse (askOf h i .device) .notPermitted []).settle)) ∧
    (h.timed = none → permitted (s.roles.get h.link) i = true → h.lenOk = false →
      exec i s = .next (((s.handed h).refuse (askOf h i .device) .badOperand []).settle)) ∧
    (h.timed = none → permitted (s.roles.get h.link) i = true → h.lenOk = true →
      exec i s = .next (((s.handed h).own i (askOf h i (subjectOf i))).settle))) ∧
  (∀ i, permitted .full i = true ∧ permitted .none i = false) ∧
  ∀ i, permitted .mix i = true ↔
    (∃ h n t r, i = .setRouteGain h n t r) ∨ (∃ h b t, i = .setBusTrim h b t) ∨ (∃ h b m, i = .setBusMute h b m) ∨
      (∃ h b m f, i = .setBusMode h b m f) ∨ (∃ h t, i = .cancelCues h t) ∨ (∃ h f p, i = .readFeed h f p) ∨
      (∃ h b, i = .readBus h b) ∨ (∃ h, i = .readCues h) ∨ (∃ h, i = .readTime h) ∨ ∃ h l c, i = .readLinkCounters h l c

/-- R162 and R170. One reply for an acknowledged command, nothing for a posted one carried out, and a COMMAND_REFUSED event that
gives the command's code and then the refusal's value words for a posted one refused; an event enters below 56 entries, with the
earlier-lost flag if the marker is set, which it clears, and at 56 or more it is lost and the marker is set. -/
def Obligations.AnswersAndEventsEnterTheQueue : Prop :=
  (∀ (s : State) (a : Ask) (st : Status) (ws : List Word),
    (a.acked = true →
      s.reply a st ws = s.refuse a st ws ∧
        s.reply a st ws =
          { s with
            reports := s.reports ++
              [{ earlierLost := false, kind := .reply, code := a.code, tag := a.tag, status := st, subject := a.subject,
                 time := s.houseTime, words := ws }] }) ∧
    (a.acked = false →
      s.reply a st ws = s ∧
        s.refuse a st ws =
          s.offer
            { earlierLost := false, kind := .event, code := 0x04, tag := a.tag, status := st, subject := a.subject, time := 0,
              words := BitVec.ofNat 32 a.code :: ws })) ∧
  ∀ (s : State) (r : Report),
    (s.reports.length + (if s.heldPlace then 1 else 0) < 56 →
      s.offer r =
        { s with
          reports := s.reports ++ [{ r with earlierLost := s.lostMarker, time := s.houseTime }], lostMarker := false }) ∧
    (56 ≤ s.reports.length + (if s.heldPlace then 1 else 0) → s.offer r = { s with lostMarker := true })

/-! ### Reset and STARTING (R1 to R3) -/

/-- The pins, the supplies, and a RESET DEVICE that is taken, put the device in reset or in STARTING: every block at R2's values, no
report, the cause of the coming STARTED event, and no reply to RESET DEVICE, acknowledged or not (R1, R3, R165; log entry 18).
There no frame, no sample of a receive signal and no sample instant has any effect (R1, R4, R140). -/
def Obligations.ResetEntersStarting : Prop :=
  (∀ s : State,
    exec .rstnLow s =
        .next { State.reset with rstnLow := true, engine := .starting, cause := 0, reports := [], pending := s.pending } ∧
      exec .rstnRelease s = .next { State.reset with engine := .starting, cause := 0, reports := [], pending := s.pending } ∧
      exec .powerUp s = .next { State.reset with engine := .starting, cause := 0, reports := [], pending := s.pending }) ∧
  (∀ (h : Hdr) (s : State), s.Ready (.resetDevice h) h →
    exec (.resetDevice h) s =
      .next { State.reset with engine := .starting, cause := 1, reports := [], pending := s.pending }) ∧
  ∀ s : State, s.engine = .starting →
    (∀ l p, exec (.linkSample l p) s = .next s) ∧ (∀ l bs, exec (.frameArrival l bs) s = .next s) ∧
      exec .sampleInstant s = .next s.settle ∧ exec .cueApply s = .next s

/-- R2 and R28: STARTING ends in State.reset with the STARTED event of its cause, and State.reset holds every value of R2's table,
the linear kernel row by row among them. -/
def Obligations.ResetHoldsTheListedValues : Prop :=
  (∀ s : State, s.engine = .starting → s.rstnLow = false →
    ∃ t : State, exec .startingEnd s = .next { State.reset with cause := s.cause, reports := t.reports, pending := s.pending } ∧
      t.reports =
        [{ earlierLost := false, kind := .event, code := 0x01, tag := 0, status := .ok, subject := .device, time := 0,
           words := [BitVec.ofNat 32 s.cause] }]) ∧
  State.reset.engine = .config ∧ State.reset.houseTime = 0 ∧ State.reset.houseRate = .r48000 ∧
    (∀ l, State.reset.framing.get l = 8) ∧
    (∀ b, State.reset.bus b =
      { state := .disabled, mode := .normal, soloFeed := 0, trim := 32768, mute := false, delay := 0, pages := [], index := 0,
        link := none, clipCount := 0, clipFlag := false }) ∧
    State.reset.tableSize .route = 0 ∧ State.reset.tableSize .admission = 0 ∧ (∀ k, State.reset.slot k = .empty) ∧
    (∀ f, (State.reset.feed f).state = .closed ∧ (State.reset.feed f).pages = [] ∧ (State.reset.feed f).fill = 0 ∧
      (State.reset.feed f).binding = none) ∧
    (State.reset.kernel 0).state = .ready ∧
    (∀ p, p ≤ 64 → (State.reset.kernel 0).row p = List.replicate 14 0 ++ [32768 - 512 * (p : Int), 512 * (p : Int)]) ∧
    (∀ k, 1 ≤ k → (State.reset.kernel k).state = .empty) ∧ (∀ k, (State.reset.kernel k).inUse = 0) ∧
    State.reset.freeList = List.range 512 ∧ (∀ p, State.reset.owner p = .free) ∧ (∀ a, State.reset.word a = 0) ∧
    State.reset.cues = [] ∧ State.reset.lateTolerance = 480 ∧
    (∀ w, (State.reset.window w).enabled = false ∧ (State.reset.window w).hits = 0 ∧ (State.reset.window w).drops = 0) ∧
    (∀ l, (State.reset.defaults.get l).verdict = .discard ∧ (State.reset.defaults.get l).hits = 0) ∧
    (∀ l, State.reset.staging.get l = .empty) ∧ State.reset.block = none ∧
    (∀ l, State.reset.linkUp l = false ∧ (State.reset.links.get l).history = [] ∧
      (State.reset.links.get l).counters =
        { good := 0, badCheck := 0, badForm := 0, engineStopped := 0, discarded := 0, stray := 0, drained := 0,
          controlDropped := 0 }) ∧
    (∀ l, State.reset.fifos.get l = []) ∧ State.reset.roles.get .l0 = .full ∧ State.reset.roles.get .l1 = .none ∧
    State.reset.lostMarker = false ∧ State.reset.reportLink = .l0 ∧
    (∀ l, State.reset.arb l =
      { passCredit := 0, reportCredit := 0, passQueue := [], flowQueue := [], busSequence := 0, assembly := none, due := none,
        sending := none })

/-! ### The mix engine's commands (file 01) -/

/-- START ENGINE moves CONFIG to RUN, puts both bus-frame sequences at 0, answers house time and raises ENGINE_STATE; in RUN it is
refused (R5). -/
def Obligations.StartEngineRuns : Prop :=
  ∀ (h : Hdr) (s : State), s.Ready (.startEngine h) h →
    let u := s.handedBetween h
    let a := askOf h (.startEngine h) .device
    (s.engine = .config →
      exec (.startEngine h) s =
        .next
          ((({ u with
                engine := .run
                arbiters :=
                  { zero := { u.arbiters.zero with busSequence := 0 }
                    one := { u.arbiters.one with busSequence := 0 } } }.reply a .ok
              (words48 u.houseTime)).plainEvent .engineState .device [1]).settle)) ∧
    (s.engine = .run → exec (.startEngine h) s = .next ((u.refuse a .wrongState []).settle))

/-- STOP ENGINE in RUN (R6, R7): the device `t` that its reply and its ENGINE_STATE event find is in CONFIG with no cue; every open
feed closed as CLOSE FEED IMMEDIATE closes it, in ascending order; every ramp snapped; every bus DISABLED with its delay line
cleared; no assembly; and everything else, house time, credits, queues and due frames among it, as it was. In CONFIG it is refused. -/
def Obligations.StopEngineStops : Prop :=
  ∀ (h : Hdr) (s : State), s.Ready (.stopEngine h) h →
    let u := s.handedBetween h
    (s.engine = .config →
      exec (.stopEngine h) s = .next ((u.refuse (askOf h (.stopEngine h) .device) .wrongState []).settle)) ∧
    (s.engine = .run →
    let closes := fun f => f < 128 ∧ (u.feed f).state ≠ .closed
    let returned := (List.range 128).flatMap fun f => if (u.feed f).state = .closed then [] else (u.feed f).pages
    let cleared := fun a => ∃ b q, b < 64 ∧ q < (u.bus b).delay ∧ q / 256 < (u.bus b).pages.length ∧
      a = pageAddress (u.bus b).pages q
    ∃ t : State, exec (.stopEngine h) s =
        .next (((t.reply (askOf h (.stopEngine h) .device) .ok (words48 u.houseTime)).plainEvent .engineState .device [0]).settle) ∧
      t = { u with
        engine := .config, cues := [], feeds := t.feeds, freeList := u.freeList ++ returned, owners := t.owners,
        kernels := t.kernels, buses := t.buses, memory := t.memory, slots := t.slots, arbiters := t.arbiters } ∧
      (∀ f, closes f → t.feed f =
        { u.feed f with
          state := .closed, pages := [], readIndex := 0, writeIndex := 0, fill := 0, binding := none, expected := none,
          start := none, critical := false, parity := false }) ∧
      (∀ f, ¬ closes f → t.feed f = u.feed f) ∧
      (∀ p, t.owner p = if p ∈ returned then .free else u.owner p) ∧
      (∀ k, t.kernel k =
        { u.kernel k with
          inUse := (u.kernel k).inUse -
            (List.range 128).countP fun f => decide ((u.feed f).state ≠ .closed ∧ (u.feed f).kernel = k) }) ∧
      (∀ b, b < 64 → t.bus b = { u.bus b with state := .disabled, index := 0 }) ∧ (∀ b, 64 ≤ b → t.bus b = u.bus b) ∧
      (∀ a, cleared a → t.word a = 0) ∧ (∀ a, ¬ cleared a → t.word a = u.word a) ∧
      (∀ i r, i < u.tableSize .route → u.routeAt i = some r →
        t.routeAt i = some { r with current := r.target * 65536, remaining := 0, step := 0 }) ∧
      (∀ k, (∀ i r, i < u.tableSize .route → u.slotKey .route i = k → u.slot k ≠ .route r) → t.slot k = u.slot k) ∧
      ∀ l, t.arb l = { u.arb l with assembly := none })

/-- SET HOUSE RATE, SET HOUSE TIME and SET LINK FRAMING are carried out in CONFIG, or refused for a bad rate, link or K (R9 to
R11), and refused with WRONG_STATE in RUN; READ TIME answers six words and changes nothing else (R166). -/
def Obligations.ConfigSettingsAreTaken : Prop :=
  ∀ (h : Hdr) (s : State),
    let u := s.handedBetween h
    (∀ rate r, (rate = 48000 ∧ r = .r48000) ∨ (rate = 96000 ∧ r = .r96000) → s.Ready (.setHouseRate h rate) h →
      s.engine = .config →
      exec (.setHouseRate h rate) s =
        .next (({ u with houseRate := r }.reply (askOf h (.setHouseRate h rate) .device) .ok [BitVec.ofNat 32 rate]).settle)) ∧
    (∀ rate, rate ≠ 48000 → rate ≠ 96000 → s.Ready (.setHouseRate h rate) h → s.engine = .config →
      exec (.setHouseRate h rate) s =
        .next ((u.refuse (askOf h (.setHouseRate h rate) .device) .badOperand []).settle)) ∧
    (∀ time, s.Ready (.setHouseTime h time) h → s.engine = .config →
      exec (.setHouseTime h time) s =
        .next (({ u with houseTime := BitVec.ofNat 48 time }.reply (askOf h (.setHouseTime h time) .device) .ok
          (words48 (BitVec.ofNat 48 time))).settle)) ∧
    (∀ l k, k = 4 ∨ k = 8 ∨ k = 16 → s.Ready (.setLinkFraming h l.num k) h → s.engine = .config →
      exec (.setLinkFraming h l.num k) s =
        .next (({ u with framing := u.framing.set l k }.reply (askOf h (.setLinkFraming h l.num k) (.link l.num)) .ok
          []).settle)) ∧
    (∀ link k, 1 < link → s.Ready (.setLinkFraming h link k) h → s.engine = .config →
      exec (.setLinkFraming h link k) s =
        .next ((u.refuse (askOf h (.setLinkFraming h link k) (.link link)) .badIndex []).settle)) ∧
    (∀ link k, link ≤ 1 → k ≠ 4 → k ≠ 8 → k ≠ 16 → s.Ready (.setLinkFraming h link k) h → s.engine = .config →
      exec (.setLinkFraming h link k) s =
        .next ((u.refuse (askOf h (.setLinkFraming h link k) (.link link)) .badOperand []).settle)) ∧
    (∀ i, (∃ r, i = .setHouseRate h r) ∨ (∃ t, i = .setHouseTime h t) ∨ (∃ l k, i = .setLinkFraming h l k) → s.Ready i h →
      s.engine = .run → exec i s = .next ((u.refuse (askOf h i (subjectOf i)) .wrongState []).settle)) ∧
    (s.Ready (.readTime h) h →
      exec (.readTime h) s =
        .next ((u.reply (askOf h (.readTime h) .device) .ok
          [BitVec.ofNat 32 (u.houseTime.toNat / 4294967296), BitVec.ofNat 32 u.houseTime.toNat, wordNat u.engine.num,
            wordNat u.houseRate.hz, wordNat u.framing.zero, wordNat u.framing.one]).settle))

/-- An untimed SET ROUTE GAIN: BAD_INDEX beyond the table, ROUTE_EMPTY at an EMPTY slot, and otherwise the fields of R15 for L = 0
and for L above 0. The reply's gain is the one before the command's own effect, also for L = 0 (log entry 20). -/
def Obligations.SetRouteGainRamps : Prop :=
  ∀ (h : Hdr) (i T L : Nat) (s : State), s.Ready (.setRouteGain h i T L) h →
    let u := s.handedBetween h
    let a := askOf h (.setRouteGain h i T L) (.route i)
    (u.tableSize .route ≤ i → exec (.setRouteGain h i T L) s = .next ((u.refuse a .badIndex []).settle)) ∧
    (i < u.tableSize .route → u.routeAt i = none → exec (.setRouteGain h i T L) s = .next ((u.refuse a .routeEmpty []).settle)) ∧
    (∀ r, i < u.tableSize .route → u.routeAt i = some r →
      exec (.setRouteGain h i T L) s =
        .next (((u.setEntry .route i
          (.route (if L = 0 then { r with current := T * 65536, target := T, remaining := 0, step := 0 }
            else { r with target := T, remaining := L, step := ((T : Int) * 65536 - r.current).tdiv L }))).reply a .ok
          [wordNat (r.current / 65536), wordNat T, wordNat L]).settle))

/-- The bus requests. ENABLE BUS and DISABLE BUS go by R18's table; SET BUS TRIM clamps to 32,768; SET BUS MUTE and SET BUS MODE
store what they name, and refuse other values (R20; the words of their replies are log entries 10 and 11). The rest of the record
is kept. A bus number above 63 is refused with BAD_INDEX. -/
def Obligations.BusRequestsAreStored : Prop :=
  (∀ (h : Hdr) (b : Nat) (s : State), b ≤ 63 →
    let u := s.handedBetween h
    (∀ x y, ((x = .disabled ∨ x = .enabling) ∧ y = .enabling) ∨ ((x = .enabled ∨ x = .disabling) ∧ y = .enabled) →
      s.Ready (.enableBus h b) h → (u.bus b).state = x →
      exec (.enableBus h b) s =
        .next (((u.setBus b { u.bus b with state := y }).reply (askOf h (.enableBus h b) (.bus b)) .ok
          [wordNat (BusState.num y)]).settle)) ∧
    (∀ x y, ((x = .disabled ∨ x = .enabling) ∧ y = .disabled) ∨ ((x = .enabled ∨ x = .disabling) ∧ y = .disabling) →
      s.Ready (.disableBus h b) h → (u.bus b).state = x →
      exec (.disableBus h b) s =
        .next (((u.setBus b { u.bus b with state := y }).reply (askOf h (.disableBus h b) (.bus b)) .ok
          [wordNat (BusState.num y)]).settle)) ∧
    (∀ trim, s.Ready (.setBusTrim h b trim) h →
      exec (.setBusTrim h b trim) s =
        .next (((u.setBus b { u.bus b with trim := min trim 32768 }).reply (askOf h (.setBusTrim h b trim) (.bus b)) .ok
          [wordNat (min trim 32768)]).settle)) ∧
    (∀ mute on, onOff? mute = some on → s.Ready (.setBusMute h b mute) h →
      exec (.setBusMute h b mute) s =
        .next (((u.setBus b { u.bus b with mute := on }).reply (askOf h (.setBusMute h b mute) (.bus b)) .ok
          [wordBool on]).settle)) ∧
    (∀ mode solo m, busMode? mode = some m → solo ≤ 127 → s.Ready (.setBusMode h b mode solo) h →
      exec (.setBusMode h b mode solo) s =
        .next (((u.setBus b { u.bus b with mode := m, soloFeed := solo }).reply (askOf h (.setBusMode h b mode solo) (.bus b)) .ok
          [wordNat m.num, wordNat solo]).settle)) ∧
    (∀ mute, 1 < mute → s.Ready (.setBusMute h b mute) h →
      exec (.setBusMute h b mute) s = .next ((u.refuse (askOf h (.setBusMute h b mute) (.bus b)) .badOperand []).settle)) ∧
    (∀ mode solo, busMode? mode = none ∨ 127 < solo → s.Ready (.setBusMode h b mode solo) h →
      exec (.setBusMode h b mode solo) s =
        .next ((u.refuse (askOf h (.setBusMode h b mode solo) (.bus b)) .badOperand []).settle))) ∧
  ∀ (i : Instr) (h : Hdr) (b : Nat) (s : State), 63 < b →
    i = .enableBus h b ∨ i = .disableBus h b ∨ (∃ trim, i = .setBusTrim h b trim) ∨ (∃ mute, i = .setBusMute h b mute) ∨
      (∃ mode solo, i = .setBusMode h b mode solo) →
    s.Ready i h → exec i s = .next (((s.handedBetween h).refuse (askOf h i (.bus b)) .badIndex []).settle)

/-- SET BUS DELAY (R21, R78, R82): refused with BAD_INDEX for a bus above 63, with BUS_ACTIVE on a bus that is not DISABLED and with
NO_PAGES where free and held pages are too few; otherwise the bus's old pages go to the back of the free list, the new ones come
from its front, and every position of the new line holds 0; nothing else changes. -/
def Obligations.BusDelayExchangesPages : Prop :=
  ∀ (h : Hdr) (b delay : Nat) (s : State), s.Ready (.setBusDelay h b delay) h →
    let u := s.handedBetween h
    let a := askOf h (.setBusDelay h b delay) (.bus b)
    let d := min delay 4800
    let n := (d + 255) / 256
    let list := u.freeList ++ (u.bus b).pages
    (63 < b → exec (.setBusDelay h b delay) s = .next ((u.refuse a .badIndex []).settle)) ∧
    (b ≤ 63 → (u.bus b).state ≠ .disabled → exec (.setBusDelay h b delay) s = .next ((u.refuse a .busActive []).settle)) ∧
    (b ≤ 63 → (u.bus b).state = .disabled → list.length < n →
      exec (.setBusDelay h b delay) s = .next ((u.refuse a .noPages []).settle)) ∧
    (b ≤ 63 → (u.bus b).state = .disabled → n ≤ list.length →
      ∃ t : State, exec (.setBusDelay h b delay) s = .next ((t.reply a .ok [wordNat d, wordNat n]).settle) ∧
        t = { u with buses := t.buses, freeList := list.drop n, owners := t.owners, memory := t.memory } ∧
        t.bus b = { u.bus b with delay := d, pages := list.take n, index := 0 } ∧ (∀ c, c ≠ b → t.bus c = u.bus c) ∧
        (∀ p, t.owner p = if p ∈ list.take n then .bus b else if p ∈ (u.bus b).pages then .free else u.owner p) ∧
        (∀ q, q < d → t.word (pageAddress (list.take n) q) = 0) ∧
        ∀ w, (∀ q, q < d → w ≠ pageAddress (list.take n) q) → t.word w = u.word w)

/-- SET BUS LINK, READ BUS and ACK BUS EVENTS, with their checks (R22, R23); booleans and enumerations in value words as log entries
11 and 12 give. -/
def Obligations.BusLinkReadAndAck : Prop :=
  (∀ (h : Hdr) (b : Nat) (s : State), b ≤ 63 →
    let u := s.handedBetween h
    (∀ link l, (link = 0 ∧ l = some Link.l0) ∨ (link = 1 ∧ l = some Link.l1) ∨ (link = 255 ∧ l = none) →
      s.Ready (.setBusLink h b link) h → (u.bus b).state = .disabled →
      exec (.setBusLink h b link) s =
        .next (((u.setBus b { u.bus b with link := l }).reply (askOf h (.setBusLink h b link) (.bus b)) .ok []).settle)) ∧
    (∀ link, link ≠ 0 → link ≠ 1 → link ≠ 255 → s.Ready (.setBusLink h b link) h → (u.bus b).state = .disabled →
      exec (.setBusLink h b link) s =
        .next ((u.refuse (askOf h (.setBusLink h b link) (.bus b)) .badOperand []).settle)) ∧
    (∀ link, s.Ready (.setBusLink h b link) h → (u.bus b).state ≠ .disabled →
      exec (.setBusLink h b link) s = .next ((u.refuse (askOf h (.setBusLink h b link) (.bus b)) .busActive []).settle)) ∧
    (s.Ready (.readBus h b) h →
      exec (.readBus h b) s =
        .next ((u.reply (askOf h (.readBus h b) (.bus b)) .ok
          [wordNat (u.bus b).state.num, wordNat (u.bus b).mode.num, wordNat (u.bus b).soloFeed, wordNat (u.bus b).trim,
            wordBool (u.bus b).mute, wordNat (u.bus b).delay, wordNat (u.bus b).pages.length,
            wordNat (match (u.bus b).link with | some .l0 => 0 | some .l1 => 1 | none => 255), wordNat (u.bus b).clipCount,
            wordBool (u.bus b).clipFlag]).settle)) ∧
    (∀ clear c, (clear = 0 ∧ c = false) ∨ (clear = 1 ∧ c = true) → s.Ready (.ackBusEvents h b clear) h →
      exec (.ackBusEvents h b clear) s =
        .next (((u.setBus b
          { u.bus b with clipFlag := false, clipCount := if c then 0 else (u.bus b).clipCount }).reply
          (askOf h (.ackBusEvents h b clear) (.bus b)) .ok [wordNat (u.bus b).clipCount]).settle)) ∧
    (∀ clear, 1 < clear → s.Ready (.ackBusEvents h b clear) h →
      exec (.ackBusEvents h b clear) s =
        .next ((u.refuse (askOf h (.ackBusEvents h b clear) (.bus b)) .badOperand []).settle))) ∧
  ∀ (i : Instr) (h : Hdr) (b : Nat) (s : State), 63 < b →
    (∃ link, i = .setBusLink h b link) ∨ i = .readBus h b ∨ (∃ clear, i = .ackBusEvents h b clear) →
    s.Ready i h → exec i s = .next (((s.handedBetween h).refuse (askOf h i (.bus b)) .badIndex []).settle)

/-! ### Kernel sets (file 02) -/

/-- LOAD KERNEL ROWS (R29, R30). A set above 3 is refused with BAD_INDEX; a count that is not 1 to 4 or does not match the
coefficients, a coefficient out of range, and rows beyond 64 are refused with BAD_OPERAND. With good operands, on a READY set in use
it is refused; on any other the set becomes LOADING, the named rows hold the coefficients given and are flagged, on leaving EMPTY or
READY no other row is flagged, and other rows keep their coefficients. -/
def Obligations.KernelRowsAreWritten : Prop :=
  (∀ (h : Hdr) (k first count : Nat) (cs : List Int) (s : State), s.Ready (.loadKernelRows h k first count cs) h →
    let refused := fun st =>
      exec (.loadKernelRows h k first count cs) s =
        .next (((s.handed h).refuse (askOf h (.loadKernelRows h k first count cs) .device) st []).settle)
    let good := 1 ≤ count ∧ count ≤ 4 ∧ cs.length = 16 * count ∧ (∀ c ∈ cs, -65536 ≤ c ∧ c ≤ 65535) ∧ first + count ≤ 65
    (3 < k → refused .badIndex) ∧ (k ≤ 3 → ¬ good → refused .badOperand)) ∧
  ∀ (h : Hdr) (k first count : Nat) (cs : List Int) (s : State),
    k ≤ 3 → 1 ≤ count → count ≤ 4 → cs.length = 16 * count → (∀ c ∈ cs, -65536 ≤ c ∧ c ≤ 65535) → first + count ≤ 65 →
    s.Ready (.loadKernelRows h k first count cs) h →
    let a := askOf h (.loadKernelRows h k first count cs) .device
    let busy := (s.kernel k).state = .ready ∧ 0 < (s.kernel k).inUse
    (busy → exec (.loadKernelRows h k first count cs) s = .next (((s.handed h).refuse a .setInUse []).settle)) ∧
    (¬ busy →
      ∃ x : KernelSet, exec (.loadKernelRows h k first count cs) s =
          .next ((((s.handed h).setKernel k x).reply a .ok
            [1, wordNat ((List.range 65).countP fun p => x.written.getLsbD p)]).settle) ∧
        x.state = .loading ∧ x.inUse = (s.kernel k).inUse ∧
        (∀ j, j < count → x.row (first + j) = (cs.drop (16 * j)).take 16) ∧
        (∀ p, p < first ∨ first + count ≤ p → x.row p = (s.kernel k).row p) ∧
        ∀ p, p ≤ 64 → x.written.getLsbD p =
          (decide (first ≤ p ∧ p < first + count) || (decide ((s.kernel k).state = .loading) && (s.kernel k).written.getLsbD p)))

/-- VALIDATE KERNEL SET (R31): a set above 3 is refused with BAD_INDEX; by its state, READY stays READY; EMPTY and a LOADING set
with a flag clear are INCOMPLETE; a row sum out of range gives DC_GAIN; otherwise the set becomes READY. -/
def Obligations.KernelSetsAreValidated : Prop :=
  (∀ (h : Hdr) (k : Nat) (s : State), 3 < k → s.Ready (.validateKernelSet h k) h →
    exec (.validateKernelSet h k) s =
      .next (((s.handed h).refuse (askOf h (.validateKernelSet h k) .device) .badIndex []).settle)) ∧
  ∀ (h : Hdr) (k : Nat) (s : State), k ≤ 3 → s.Ready (.validateKernelSet h k) h →
    let u := s.handed h
    let a := askOf h (.validateKernelSet h k) .device
    let x := s.kernel k
    let sum := fun p => (x.row p).sum
    (x.state = .ready → exec (.validateKernelSet h k) s = .next ((u.reply a .ok []).settle)) ∧
    (x.state = .empty → exec (.validateKernelSet h k) s = .next ((u.refuse a .incomplete [0, 0]).settle)) ∧
    (∀ p, x.state = .loading → p ≤ 64 → x.written.getLsbD p = false → (∀ q, q < p → x.written.getLsbD q = true) →
      exec (.validateKernelSet h k) s = .next ((u.refuse a .incomplete [wordNat p, wordNat x.writtenCount]).settle)) ∧
    (∀ p, x.state = .loading → (∀ q, q ≤ 64 → x.written.getLsbD q = true) → p ≤ 64 → sum p < 32704 ∨ 32832 < sum p →
      (∀ q, q < p → 32704 ≤ sum q ∧ sum q ≤ 32832) →
      exec (.validateKernelSet h k) s = .next ((u.refuse a .dcGain [wordNat p, wordInt (sum p)]).settle)) ∧
    (x.state = .loading → (∀ q, q ≤ 64 → x.written.getLsbD q = true) → (∀ q, q ≤ 64 → 32704 ≤ sum q ∧ sum q ≤ 32832) →
      exec (.validateKernelSet h k) s = .next (((u.setKernel k { x with state := .ready }).reply a .ok []).settle))

/-! ### Feeds (files 02 and 03) -/

/-- The arithmetic of the manual: the nominal step and correction limit of every rate code at both house rates (R34's table), a
servo run (R43), an interpolated coefficient and the filter's sum before saturation (R41), the bus arithmetic before saturation
(R24), and saturation to 24 bits (R25, R42). -/
def Obligations.ArithmeticFollowsTheManual : Prop :=
  ([0, 1, 2, 3].map (fun r => (nominalStep r .r48000, correctionLimit (nominalStep r .r48000))) =
      [(15414067, 15052), (16777216, 16384), (30828134, 30105), (33554432, 32768)] ∧
    [0, 1, 2, 3].map (fun r => (nominalStep r .r96000, correctionLimit (nominalStep r .r96000))) =
      [(7707034, 7526), (8388608, 8192), (15414067, 15052), (16777216, 16384)]) ∧
  (∀ x : Feed,
    let e : Int := (x.fill : Int) - x.target
    let i := max (-1048576) (min (x.integrator + e) 1048576)
    let lim : Int := (x.nominal / 1024 : Nat)
    let c := max (-lim) (min (e * 64 + i / 16) lim)
    x.servo = { x with integrator := i, correction := c, step := x.nominal + c }) ∧
  (∀ (k : KernelSet) (pos : Nat) (hist : List Sample),
    let p := pos / 262144
    let w : Int := (pos % 262144 : Nat)
    (k.row p).length = 16 → (k.row (p + 1)).length = 16 → hist.length = 16 →
    filterOutput k pos hist =
      (((List.range 16).map fun t =>
          ((k.row p).getD t 0 + ((k.row (p + 1)).getD t 0 - (k.row p).getD t 0) * w / 262144) * (hist.getD t 0).toInt).sum +
        16384) / 32768) ∧
  (∀ (b : Bus) (acc y : Int),
    (b.mode = .normal → b.mixed acc y = ((acc + 8192) / 16384 * b.trim + 16384) / 32768) ∧
      (b.mode = .solo → b.mixed acc y = y) ∧ (b.mode = .silent → b.mixed acc y = 0)) ∧
  ∀ x : Int, (x < -8388608 → saturate24 x = -8388608) ∧ (8388607 < x → saturate24 x = 8388607) ∧
    (-8388608 ≤ x → x ≤ 8388607 → saturate24 x = x)

/-- OPEN FEED that passes R48's checks (R49, R32, R35, R75): the feed is PRIMING with fresh fields on the first pages of the free
list, the kernel set's in-use count rises by one, and nothing else changes. -/
def Obligations.OpenFeedPrimes : Prop :=
  ∀ (h : Hdr) (f rate k pages target auto ret : Nat) (start : Option Nat) (on : Bool) (l : Link) (s : State),
    s.engine = .run → f ≤ 127 → rate ≤ 3 → pages = 1 ∨ pages = 2 ∨ pages = 4 ∨ pages = 8 → onOff? auto = some on →
    Link.ofNat? ret = some l → k ≤ 3 → (s.feed f).state = .closed → (s.kernel k).state = .ready →
    pages ≤ s.freeList.length → s.Ready (.openFeed h f rate k pages target auto ret start) h →
    let u := s.handed h
    let aim := max 16 (min target (3 * (pages * 256) / 4 - 1))
    ∃ t : State, exec (.openFeed h f rate k pages target auto ret start) s =
        .next ((t.reply (askOf h (.openFeed h f rate k pages target auto ret start) (.feed f)) .ok
          [wordNat (pages * 256), wordNat aim, wordNat (nominalStep rate s.houseRate)]).settle) ∧
      t = { u with feeds := t.feeds, freeList := s.freeList.drop pages, owners := t.owners, kernels := t.kernels } ∧
      t.feed f =
        { state := .priming, binding := none, returnLink := l, pages := s.freeList.take pages, readIndex := 0, writeIndex := 0,
          fill := 0, target := aim, start := start.map (BitVec.ofNat 48), autoFlow := on, hold := false, critical := false,
          paused := false, parity := false, expected := none, overflowCount := 0, underrunCount := 0, gapCount := 0,
          lateCount := 0, sticky := 0, rateCode := rate, kernel := k, nominal := nominalStep rate s.houseRate, correction := 0,
          integrator := 0, step := nominalStep rate s.houseRate, position := 0, history := List.replicate 16 0,
          clipCount := 0 } ∧
      (∀ g, g ≠ f → t.feed g = s.feed g) ∧ t.kernel k = { s.kernel k with inUse := (s.kernel k).inUse + 1 } ∧
      (∀ j, j ≠ k → t.kernel j = s.kernel j) ∧
      ∀ p, t.owner p = if p ∈ s.freeList.take pages then .feed f else s.owner p

/-- R48's checks, in their order. -/
def Obligations.OpenFeedChecksInOrder : Prop :=
  ∀ (h : Hdr) (f rate k pages target auto ret : Nat) (start : Option Nat) (s : State),
    s.Ready (.openFeed h f rate k pages target auto ret start) h →
    let refused := fun st =>
      exec (.openFeed h f rate k pages target auto ret start) s =
        .next (((s.handed h).refuse (askOf h (.openFeed h f rate k pages target auto ret start) (.feed f)) st []).settle)
    let good := rate ≤ 3 ∧ (pages = 1 ∨ pages = 2 ∨ pages = 4 ∨ pages = 8) ∧ auto ≤ 1 ∧ ret ≤ 1
    (s.engine = .config → refused .wrongState) ∧ (s.engine = .run → 127 < f → refused .badIndex) ∧
    (s.engine = .run → f ≤ 127 → ¬ good → refused .badOperand) ∧
    (s.engine = .run → f ≤ 127 → good → 3 < k → refused .badIndex) ∧
    (s.engine = .run → f ≤ 127 → good → k ≤ 3 → (s.feed f).state ≠ .closed → refused .feedBusy) ∧
    (s.engine = .run → f ≤ 127 → good → k ≤ 3 → (s.feed f).state = .closed → (s.kernel k).state ≠ .ready → refused .noKernel) ∧
    (s.engine = .run → f ≤ 127 → good → k ≤ 3 → (s.feed f).state = .closed → (s.kernel k).state = .ready →
      s.freeList.length < pages → refused .noPages)

/-- CLOSE FEED (R53, R54, R56): IMMEDIATE closes it, returns its pages, lowers its set's in-use count, keeps the
fields R56 lists and changes nothing else; DRAIN makes a feed with samples DRAINING, leaves a DRAINING one, and closes one with
none, with a STATE event after the reply. A feed above 127, an unknown mode and a CLOSED feed are refused, in this order. -/
def Obligations.CloseFeedClosesOrDrains : Prop :=
  (∀ (h : Hdr) (f m : Nat) (s : State), 127 < f → s.Ready (.closeFeed h f m) h →
    exec (.closeFeed h f m) s = .next (((s.handed h).refuse (askOf h (.closeFeed h f m) (.feed f)) .badIndex []).settle)) ∧
  ∀ (h : Hdr) (f : Nat) (s : State), f ≤ 127 →
    let u := s.handed h
    let x := s.feed f
    let closes := fun (t : State) =>
      t = { u with feeds := t.feeds, freeList := s.freeList ++ x.pages, owners := t.owners, kernels := t.kernels } ∧
      t.feed f = { x with
        state := .closed, pages := [], readIndex := 0, writeIndex := 0, fill := 0, binding := none, expected := none,
        start := none, critical := false, parity := false } ∧
      (∀ g, g ≠ f → t.feed g = s.feed g) ∧ (∀ p, t.owner p = if p ∈ x.pages then .free else s.owner p) ∧
      t.kernel x.kernel = { s.kernel x.kernel with inUse := (s.kernel x.kernel).inUse - 1 } ∧
      ∀ k, k ≠ x.kernel → t.kernel k = s.kernel k
    (s.Ready (.closeFeed h f 1) h → x.state ≠ .closed →
      ∃ t : State, closes t ∧
        exec (.closeFeed h f 1) s = .next ((t.reply (askOf h (.closeFeed h f 1) (.feed f)) .ok [0, wordNat x.fill]).settle)) ∧
    (s.Ready (.closeFeed h f 2) h → x.state ≠ .closed → x.state ≠ .draining → x.fill ≠ 0 →
      exec (.closeFeed h f 2) s =
        .next (((u.setFeed f { x with state := .draining, start := none }).reply (askOf h (.closeFeed h f 2) (.feed f)) .ok
          [4, wordNat x.fill]).settle)) ∧
    (s.Ready (.closeFeed h f 2) h → x.state = .draining →
      exec (.closeFeed h f 2) s = .next ((u.reply (askOf h (.closeFeed h f 2) (.feed f)) .ok [4, wordNat x.fill]).settle)) ∧
    (s.Ready (.closeFeed h f 2) h → x.state ≠ .closed → x.state ≠ .draining → x.fill = 0 →
      ∃ t : State, closes t ∧
        exec (.closeFeed h f 2) s =
          .next (((t.reply (askOf h (.closeFeed h f 2) (.feed f)) .ok [0, 0]).stickyEvent f .stateClosed .state [0, 0]).settle)) ∧
    (∀ m, m ≠ 1 → m ≠ 2 → s.Ready (.closeFeed h f m) h →
      exec (.closeFeed h f m) s = .next ((u.refuse (askOf h (.closeFeed h f m) (.feed f)) .badOperand []).settle)) ∧
    (∀ m, m = 1 ∨ m = 2 → s.Ready (.closeFeed h f m) h → x.state = .closed →
      exec (.closeFeed h f m) s = .next ((u.refuse (askOf h (.closeFeed h f m) (.feed f)) .feedClosed []).settle))

/-- RETUNE FEED without a new set or with the feed's own, and SET FEED TARGET, on an open feed (R69, R70, R35): the servo starts
afresh at N; and a RETUNE FEED that names another READY set moves one in-use count. Their checks, each in its order. -/
def Obligations.RetuneAndTargetResetTheServo : Prop :=
  (∀ (h : Hdr) (f rate : Nat) (set : Option Nat) (s : State), s.Ready (.retuneFeed h f rate set) h →
    let refused := fun st =>
      exec (.retuneFeed h f rate set) s =
        .next (((s.handed h).refuse (askOf h (.retuneFeed h f rate set) (.feed f)) st []).settle)
    let known := ∀ k, set = some k → k ≤ 3
    (127 < f → refused .badIndex) ∧ (f ≤ 127 → 3 < rate → refused .badOperand) ∧
    (f ≤ 127 → rate ≤ 3 → ¬ known → refused .badIndex) ∧
    (f ≤ 127 → rate ≤ 3 → known → (s.feed f).state = .closed → refused .feedClosed) ∧
    (∀ k, f ≤ 127 → rate ≤ 3 → set = some k → k ≤ 3 → (s.feed f).state ≠ .closed → (s.kernel k).state ≠ .ready →
      refused .noKernel)) ∧
  (∀ (h : Hdr) (f target : Nat) (s : State), s.Ready (.setFeedTarget h f target) h →
    let refused := fun st =>
      exec (.setFeedTarget h f target) s =
        .next (((s.handed h).refuse (askOf h (.setFeedTarget h f target) (.feed f)) st []).settle)
    (127 < f → refused .badIndex) ∧ (f ≤ 127 → (s.feed f).state = .closed → refused .feedClosed)) ∧
  ∀ (h : Hdr) (f : Nat) (s : State), f ≤ 127 → (s.feed f).state ≠ .closed →
    let u := s.handed h
    let x := s.feed f
    (∀ rate set, rate ≤ 3 → set = none ∨ (set = some x.kernel ∧ x.kernel ≤ 3 ∧ (s.kernel x.kernel).state = .ready) →
      s.Ready (.retuneFeed h f rate set) h →
      exec (.retuneFeed h f rate set) s =
        .next (((u.setFeed f
          { x with
            rateCode := rate, nominal := nominalStep rate s.houseRate, correction := 0, integrator := 0,
            step := nominalStep rate s.houseRate }).reply (askOf h (.retuneFeed h f rate set) (.feed f)) .ok
          [wordNat (nominalStep rate s.houseRate), wordNat x.kernel]).settle)) ∧
    (∀ rate k, rate ≤ 3 → k ≤ 3 → k ≠ x.kernel → (s.kernel k).state = .ready → s.Ready (.retuneFeed h f rate (some k)) h →
      exec (.retuneFeed h f rate (some k)) s =
        .next (((((u.setKernel x.kernel { s.kernel x.kernel with inUse := (s.kernel x.kernel).inUse - 1 }).setKernel k
            { s.kernel k with inUse := (s.kernel k).inUse + 1 }).setFeed f
          { x with
            rateCode := rate, nominal := nominalStep rate s.houseRate, correction := 0, integrator := 0,
            step := nominalStep rate s.houseRate, kernel := k }).reply (askOf h (.retuneFeed h f rate (some k)) (.feed f)) .ok
          [wordNat (nominalStep rate s.houseRate), wordNat k]).settle)) ∧
    (∀ target, s.Ready (.setFeedTarget h f target) h →
      exec (.setFeedTarget h f target) s =
        .next (((u.setFeed f
          { x with
            target := max 16 (min target (3 * x.capacity / 4 - 1)), correction := 0, integrator := 0,
            step := x.nominal }).reply (askOf h (.setFeedTarget h f target) (.feed f)) .ok
          [wordNat (max 16 (min target (3 * x.capacity / 4 - 1)))]).settle))

/-- HOLD FEED sends PAUSE and sets forced hold and paused; RELEASE FEED clears forced hold, and resumes a paused sender unless
auto-flow keeps it paused (R66, R67); a feed above 127 and a CLOSED feed are refused. The arrival flow check (R63, R64): critical is
set at three quarters of the capacity; a feed that wants its sender paused pauses it, and while it is paused every second check
sends PAUSE again. The consumption flow check (R63, R65): critical is cleared below half the capacity, and a paused sender that
neither forced hold nor critical holds is resumed where auto-flow is on. A flow frame goes to the flow queue of the feed's return
link by R68 and R177: none without a binding, none on a DOWN link, at the back below 16 frames, in place of the oldest frame of its
stream at 16, and counted "control dropped" where there is none. Yes and no in the replies' words: log entry 11. -/
def Obligations.HoldAndReleaseSendFlow : Prop :=
  (∀ (h : Hdr) (f : Nat) (s : State), f ≤ 127 → (s.feed f).state ≠ .closed →
    let u := s.handed h
    let x := s.feed f
    (s.Ready (.holdFeed h f) h →
      exec (.holdFeed h f) s =
        .next ((((u.sendFlow f true).setFeed f { x with hold := true, paused := true, parity := false }).reply
          (askOf h (.holdFeed h f) (.feed f)) .ok [wordNat x.fill, wordBool x.binding.isSome]).settle)) ∧
    (s.Ready (.releaseFeed h f) h → x.paused = true → ¬ (x.autoFlow = true ∧ x.critical = true) →
      exec (.releaseFeed h f) s =
        .next ((((u.sendFlow f false).setFeed f { x with hold := false, paused := false }).reply
          (askOf h (.releaseFeed h f) (.feed f)) .ok [wordNat x.fill, 0, wordBool x.binding.isSome]).settle)) ∧
    (s.Ready (.releaseFeed h f) h → x.paused = false ∨ (x.autoFlow = true ∧ x.critical = true) →
      exec (.releaseFeed h f) s =
        .next (((u.setFeed f { x with hold := false }).reply (askOf h (.releaseFeed h f) (.feed f)) .ok
          [wordNat x.fill, wordBool x.paused, 0]).settle))) ∧
  (∀ (i : Instr) (h : Hdr) (f : Nat) (s : State), i = .holdFeed h f ∨ i = .releaseFeed h f → s.Ready i h →
    let refused := fun st => exec i s = .next (((s.handed h).refuse (askOf h i (.feed f)) st []).settle)
    (127 < f → refused .badIndex) ∧ (f ≤ 127 → (s.feed f).state = .closed → refused .feedClosed)) ∧
  (∀ (f : Nat) (s : State),
    let x := s.feed f
    let size := 256 * x.pages.length
    let full := x.critical = true ∨ 3 * size / 4 ≤ x.fill
    let wants := x.hold = true ∨ (x.autoFlow = true ∧ full)
    let y := { x with critical := decide full }
    (¬ wants → s.arrivalFlow f = s.setFeed f y) ∧
    (wants → x.paused = false →
      s.arrivalFlow f = (s.sendFlow f true).setFeed f { y with paused := true, parity := false }) ∧
    (wants → x.paused = true → x.parity = false → s.arrivalFlow f = s.setFeed f { y with parity := true }) ∧
    (wants → x.paused = true → x.parity = true →
      s.arrivalFlow f = (s.sendFlow f true).setFeed f { y with parity := false })) ∧
  (∀ (f : Nat) (s : State),
    let x := s.feed f
    let still := x.critical = true ∧ 256 * x.pages.length / 2 ≤ x.fill
    let resumes := x.paused = true ∧ x.autoFlow = true ∧ x.hold = false ∧ ¬ still
    (resumes → s.consumptionFlow f = (s.sendFlow f false).setFeed f { x with critical := false, paused := false }) ∧
    (¬ resumes → s.consumptionFlow f = s.setFeed f { x with critical := decide still })) ∧
  ∀ (f : Nat) (pause : Bool) (s : State),
    let x := s.feed f
    let a := s.arb x.returnLink
    (x.binding = none → s.sendFlow f pause = s) ∧
    (∀ l st, x.binding = some (l, st) →
      let fr : FlowFrame := { pause := pause, stream := st, fill := x.fill, capacity := 256 * x.pages.length }
      (s.linkUp x.returnLink = false → s.sendFlow f pause = s) ∧
      (s.linkUp x.returnLink = true → a.flowQueue.length < 16 →
        s.sendFlow f pause = s.setArb x.returnLink { a with flowQueue := a.flowQueue ++ [fr] }) ∧
      (∀ q r old, s.linkUp x.returnLink = true → a.flowQueue = q ++ old :: r → 16 ≤ q.length + r.length + 1 →
        old.stream = st → (∀ g ∈ q, g.stream ≠ st) →
        s.sendFlow f pause = s.setArb x.returnLink { a with flowQueue := q ++ r ++ [fr] }) ∧
      (s.linkUp x.returnLink = true → 16 ≤ a.flowQueue.length → (∀ g ∈ a.flowQueue, g.stream ≠ st) →
        s.sendFlow f pause =
          s.count x.returnLink fun c => { c with controlDropped := min (c.controlDropped + 1) 4294967295 }))

/-- READ FEED answers the words of R72 and changes nothing; ACK FEED EVENTS clears the ten flags, and the five counts when asked
(R72, R73; how the STATUS words pack and give absent, yes and no: log entries 10 to 12). A feed above 127, an unknown part and a bad
clear flag are refused. An event with a sticky flag (R71): a set flag holds it back; a clear one is set and the event goes to the
report unit, and the flag is set also where the event is lost. -/
def Obligations.FeedsAreReadAndAcknowledged : Prop :=
  (∀ (i : Instr) (h : Hdr) (f n : Nat) (s : State), i = .readFeed h f n ∨ i = .ackFeedEvents h f n → s.Ready i h →
    let refused := fun st => exec i s = .next (((s.handed h).refuse (askOf h i (.feed f)) st []).settle)
    (127 < f → refused .badIndex) ∧
    (f ≤ 127 → (i = .readFeed h f n ∧ (n = 0 ∨ 2 < n)) ∨ (i = .ackFeedEvents h f n ∧ 1 < n) → refused .badOperand)) ∧
  ([Sticky.streamConflict, .rateMismatch, .gap, .lateFrame, .overflow, .underrun, .feedClip, .stateRunning, .stateStarved,
    .stateClosed].map Sticky.bit = List.range 10) ∧
  (∀ (f : Nat) (k : Sticky) (e : EventKind) (ws : List Word) (s : State),
    let x := s.feed f
    let entries := s.reports.length + (if s.heldPlace then 1 else 0)
    let flagged := fun (t : State) => t.setFeed f { x with sticky := x.sticky ||| (1#10 <<< k.bit) }
    (x.sticky.getLsbD k.bit = true → s.stickyEvent f k e ws = s) ∧
    (x.sticky.getLsbD k.bit = false → entries < 56 →
      s.stickyEvent f k e ws =
        flagged { s with
          reports := s.reports ++
            [{ earlierLost := s.lostMarker, kind := .event, code := e.code, tag := 0, status := .ok, subject := .feed f,
               time := s.houseTime, words := ws }]
          lostMarker := false }) ∧
    (x.sticky.getLsbD k.bit = false → 56 ≤ entries → s.stickyEvent f k e ws = flagged { s with lostMarker := true })) ∧
  ∀ (h : Hdr) (f : Nat) (s : State), f ≤ 127 →
    let u := s.handed h
    let x := s.feed f
    (s.Ready (.readFeed h f 1) h →
      exec (.readFeed h f 1) s =
        .next ((u.reply (askOf h (.readFeed h f 1) (.feed f)) .ok
          ([wordNat x.state.num,
              (match x.binding with | some (l, st) => wordNat (l.num * 65536 + st) | none => BitVec.allOnes 32),
              wordNat x.returnLink.num, wordNat x.pages.length, wordNat x.fill, wordNat x.readIndex, wordNat x.writeIndex,
              wordNat x.target] ++
            (match x.start with | some t => words48 t | none => [BitVec.allOnes 32, BitVec.allOnes 32]) ++
            [wordNat ((if x.autoFlow then 1 else 0) + (if x.hold then 2 else 0) + (if x.critical then 4 else 0) +
                (if x.paused then 8 else 0) + (if x.parity then 16 else 0)),
              (match x.expected with | some n => wordNat n | none => BitVec.allOnes 32), x.sticky.zeroExtend 32,
              wordNat x.overflowCount, wordNat x.underrunCount, wordNat x.gapCount, wordNat x.lateCount, wordNat x.clipCount,
              wordNat (x.rateCode + 4 * x.kernel), wordNat x.nominal, wordInt x.correction, wordInt x.integrator,
              wordInt x.step, wordNat x.position])).settle)) ∧
    (s.Ready (.readFeed h f 2) h →
      exec (.readFeed h f 2) s =
        .next ((u.reply (askOf h (.readFeed h f 2) (.feed f)) .ok (x.history.map fun v => BitVec.ofInt 32 v.toInt)).settle)) ∧
    (∀ clear c, (clear = 0 ∧ c = false) ∨ (clear = 1 ∧ c = true) → s.Ready (.ackFeedEvents h f clear) h →
      exec (.ackFeedEvents h f clear) s =
        .next (((u.setFeed f
          (if c then
            { x with sticky := 0, overflowCount := 0, underrunCount := 0, gapCount := 0, lateCount := 0, clipCount := 0 }
          else { x with sticky := 0 })).reply (askOf h (.ackFeedEvents h f clear) (.feed f)) .ok
          [x.sticky.zeroExtend 32, wordNat x.overflowCount, wordNat x.underrunCount, wordNat x.gapCount, wordNat x.lateCount,
            wordNat x.clipCount]).settle))

/-- An admitted frame on a feed (R57 to R62). Counted stray on a CLOSED feed and on a binding that differs, which also raises
STREAM_CONFLICT; counted drained on a DRAINING one; RATE_MISMATCH; with no expected sequence, or the expected one, the samples
written, or OVERFLOW where they do not fit. By the distance d from the expected sequence: to 8, as many zeros as d such frames
hold and the buffer has room for, and GAP; to 32,767, RESYNC to PRIMING with an empty buffer and the converter at its start;
above, the frame is discarded as late. That the consumption flow check of R65 is made at every RESYNC, from an empty buffer too, is
the model's reading (log entry 22). -/
def Obligations.ArrivalsAreCheckedAndWritten : Prop :=
  (∀ (l : Link) (fr : SampleFrame) (n : Nat) (s : State),
    let x := s.feed n
    let stray := s.count l fun c => { c with stray := min (c.stray + 1) 4294967295 }
    let mine := x.binding = none ∨ x.binding = some (l, fr.stream)
    let live := x.state = .priming ∨ x.state = .running ∨ x.state = .starved
    let due := x.expected = none ∨ x.expected = some fr.sequence
    let next := some ((fr.sequence + 1) % 65536)
    (x.state = .closed → s.arrive l fr n = stray) ∧
    (∀ b, x.state ≠ .closed → x.binding = some b → b ≠ (l, fr.stream) →
      s.arrive l fr n =
        stray.stickyEvent n .streamConflict .streamConflict [BitVec.ofNat 32 (l.num * 65536 + fr.stream)]) ∧
    (x.state = .draining → mine →
      s.arrive l fr n = s.count l fun c => { c with drained := min (c.drained + 1) 4294967295 }) ∧
    (live → mine → fr.rateCode ≠ x.rateCode →
      s.arrive l fr n = s.stickyEvent n .rateMismatch .rateMismatch [wordNat fr.rateCode]) ∧
    (live → mine → fr.rateCode = x.rateCode → due → fr.sequence < 65536 → fr.samples.length ≤ x.capacity - x.fill →
      s.arrive l fr n =
        ((s.writeSamples n fr.samples).setFeed n
          { (s.writeSamples n fr.samples).feed n with binding := some (l, fr.stream), expected := next }).arrivalFlow n) ∧
    (live → mine → fr.rateCode = x.rateCode → due → fr.sequence < 65536 → x.capacity - x.fill < fr.samples.length →
      s.arrive l fr n =
        ((s.setFeed n { x with overflowCount := min (x.overflowCount + 1) 65535, expected := next }).stickyEvent n .overflow
          .overflow [wordNat fr.samples.length, wordNat x.fill]).arrivalFlow n)) ∧
  ∀ (l : Link) (fr : SampleFrame) (n e d : Nat) (s : State),
    let x := s.feed n
    x.state = .priming ∨ x.state = .running ∨ x.state = .starved → x.binding = none ∨ x.binding = some (l, fr.stream) →
    fr.rateCode = x.rateCode → x.expected = some e → e < 65536 → d < 65536 → fr.sequence = (e + d) % 65536 →
    (1 ≤ d → d ≤ 8 →
      let v := s.writeSamples n (List.replicate (min (d * fr.samples.length) (x.capacity - x.fill)) 0)
      s.arrive l fr n =
        ((v.setFeed n { v.feed n with gapCount := min (x.gapCount + d) 65535 }).stickyEvent n .gap .gap [wordNat d]).takeFrame l fr
          n) ∧
    (9 ≤ d → d ≤ 32767 →
      s.arrive l fr n =
        (((s.setFeed n { x with
            state := .priming, readIndex := x.writeIndex, fill := 0, history := List.replicate 16 0, position := 0,
            correction := 0, integrator := 0, step := x.nominal }).consumptionFlow n).plainEvent .resync (.feed n)
          [wordNat d, wordNat x.state.num]).takeFrame l fr n) ∧
    (32768 ≤ d →
      s.arrive l fr n =
        (s.setFeed n { x with lateCount := min (x.lateCount + 1) 65535 }).stickyEvent n .lateFrame .lateFrame
          [wordNat fr.sequence, wordNat e])

/-- A buffer takes its samples at the write index and gives them at the read index (R46, R80, R39): writing moves the write index
on and the fill up and touches no other word; consuming moves the read index on and the fill down, and the samples become the
newest of the history. -/
def Obligations.BuffersAreRings : Prop :=
  ∀ (n : Nat) (x : Sample) (s : State),
    let f := s.feed n
    let cell := fun i => f.pages.getD (i / 256) 0 * 256 + i % 256
    (∃ t : State, s.writeSample n x = t ∧ t = { s with memory := t.memory, feeds := t.feeds } ∧
      t.feed n = { f with writeIndex := (f.writeIndex + 1) % (256 * f.pages.length), fill := f.fill + 1 } ∧
      (∀ m, m ≠ n → t.feed m = s.feed m) ∧ t.word (cell f.writeIndex) = x ∧
      ∀ a, a ≠ cell f.writeIndex → t.word a = s.word a) ∧
    s.consumeSample n =
      s.setFeed n
        { f with
          readIndex := (f.readIndex + 1) % (256 * f.pages.length), fill := f.fill - 1
          history := f.history.drop 1 ++ [s.word (cell f.readIndex)] }

/-! ### The page pool (file 04) -/

/-- READ POOL answers the words of R84 and R85, all ones where they give a value as absent, and changes nothing (how the words are
laid out and the owner numbered: log entries 10 and 12); a bad part or number is BAD_OPERAND, and a number out of range
BAD_INDEX (R83). -/
def Obligations.PoolIsRead : Prop :=
  ∀ (h : Hdr) (part : Nat) (number : Option Nat) (s : State), s.Ready (.readPool h part number) h →
    let u := s.handed h
    let a := askOf h (.readPool h part number) .device
    let answers := fun ws => exec (.readPool h part number) s = .next ((u.reply a .ok ws).settle)
    (part = 1 → number = none →
      answers [wordNat s.freeList.length, wordNat ((List.range 128).map fun f => (s.feed f).pages.length).sum,
        wordNat ((List.range 64).map fun b => (s.bus b).pages.length).sum,
        wordNat ((List.range 128).filter fun f => decide ((s.feed f).state ≠ .closed)).length,
        wordNat ((List.range 64).filter fun b => decide ((s.bus b).pages ≠ [])).length,
        (match s.freeList.head? with | some p => wordNat p | none => BitVec.allOnes 32),
        (match s.freeList.getLast? with | some p => wordNat p | none => BitVec.allOnes 32)]) ∧
    (∀ n, part = 2 → number = some n → n ≤ 127 →
      answers ((List.range' n (min 24 (128 - n))).map fun f => wordNat (s.feed f).pages.length)) ∧
    (∀ n, part = 3 → number = some n → n ≤ 63 →
      answers ((List.range' n (min 24 (64 - n))).map fun b => wordNat (s.bus b).pages.length)) ∧
    (∀ n, part = 4 → number = some n → n ≤ 127 →
      answers (wordNat (s.feed n).pages.length :: (s.feed n).pages.map wordNat)) ∧
    (∀ n, part = 5 → number = some n → n ≤ 63 →
      answers (wordNat (s.bus n).pages.length :: wordNat (s.bus n).delay :: wordNat (s.bus n).index ::
        (s.bus n).pages.map wordNat)) ∧
    (∀ n before behind, part = 6 → number = some n → n ≤ 511 → n ∉ before →
      (s.owner n = .free → s.freeList = before ++ n :: behind → answers [0, BitVec.allOnes 32, wordNat before.length]) ∧
      (∀ f, s.owner n = .feed f → (s.feed f).pages = before ++ n :: behind →
        answers [1, wordNat f, wordNat before.length]) ∧
      (∀ b, s.owner n = .bus b → (s.bus b).pages = before ++ n :: behind →
        answers [2, wordNat b, wordNat before.length])) ∧
    (part = 0 ∨ 6 < part ∨ (part = 1 ∧ number ≠ none) ∨ (2 ≤ part ∧ part ≤ 6 ∧ number = none) →
      exec (.readPool h part number) s = .next ((u.refuse a .badOperand []).settle)) ∧
    (∀ n, number = some n →
      ((part = 2 ∨ part = 4) ∧ 127 < n) ∨ ((part = 3 ∨ part = 5) ∧ 63 < n) ∨ (part = 6 ∧ 511 < n) →
      exec (.readPool h part number) s = .next ((u.refuse a .badIndex []).settle))

/-! ### Cues (file 05) -/

/-- The arrival of a timed command (R87 to R92): refused by role, then in CONFIG, then for a kind without a timed form, then for its
length and operands; QUEUED at or above the horizon, LATE within the tolerance, TOO_LATE beyond it, QUEUE_FULL at 256 cues. The five
kinds with a timed form and their operand checks (R87's fourth check), and a cue's place: behind every cue with the same or an
earlier time, before every later one (R91). The horizon during instant 2^48 − 1 is the model's choice (log entry 27). -/
def Obligations.TimedCommandsAreQueued : Prop :=
  (∀ i c, cueCommand? i = some c ↔
    (∃ h n t r, i = .setRouteGain h n t r ∧ c = .routeGain n t r) ∨ (∃ h b t, i = .setBusTrim h b t ∧ c = .busTrim b t) ∨
      (∃ h b m, i = .setBusMute h b m ∧ c = .busMute b m) ∨ (∃ h b m f, i = .setBusMode h b m f ∧ c = .busMode b m f) ∨
      ∃ h f m, i = .closeFeed h f m ∧ c = .closeFeed f m) ∧
  (∀ s : State,
    (∀ n t r, s.cueRefusal (.routeGain n t r) = if s.tableSize .route ≤ n then some .badIndex else none) ∧
    (∀ b t, s.cueRefusal (.busTrim b t) = if 63 < b then some .badIndex else none) ∧
    (∀ b m, s.cueRefusal (.busMute b m) = if 63 < b then some .badIndex else if 1 < m then some .badOperand else none) ∧
    (∀ b m f,
      s.cueRefusal (.busMode b m f) =
        if 63 < b then some .badIndex else if m = 0 ∨ 3 < m ∨ 127 < f then some .badOperand else none) ∧
    (∀ f m,
      s.cueRefusal (.closeFeed f m) =
        if 127 < f then some .badIndex else if m ≠ 1 ∧ m ≠ 2 then some .badOperand else none)) ∧
  (∀ (c : Cue) (before behind : List Cue), (∀ d ∈ before, d.time ≤ c.time) → (∀ d ∈ behind, c.time < d.time) →
    insertCue c (before ++ behind) = before ++ c :: behind) ∧
  ∀ (i : Instr) (h : Hdr) (t : Nat) (s : State), s.Takes i h → isUnknown i = false → h.timed = some t →
    let u := s.handed h
    let a := askOf h i (subjectOf i)
    let A : Time := BitVec.ofNat 48 t
    let V : Time := if s.instant.isSome then s.houseTime + 1 else s.houseTime
    let refused := fun st => exec i s = .next ((u.refuse (askOf h i .device) st []).settle)
    let allowed := permitted (s.roles.get h.link) i = true
    (permitted (s.roles.get h.link) i = false → refused .notPermitted) ∧
    (allowed → s.engine = .config → refused .wrongState) ∧
    (allowed → s.engine = .run → cueCommand? i = none → refused .notCueable) ∧
    ∀ c, allowed → s.engine = .run → cueCommand? i = some c →
      let cue := fun (x : Time) => ({ time := x, command := c, tag := h.tag, origin := h.link, acked := h.acked } : Cue)
      (h.lenOk = false → refused .badOperand) ∧
      (∀ st, h.lenOk = true → s.cueRefusal c = some st → exec i s = .next ((u.refuse a st []).settle)) ∧
      (h.lenOk = true → s.cueRefusal c = none →
        (V ≤ A → s.cues.length < 256 →
          exec i s =
            .next (({ u with cues := insertCue (cue A) s.cues }.reply a .queued
              (words48 A ++ [0, wordNat (s.cues.length + 1)])).settle)) ∧
        (A < V → V.toNat - A.toNat ≤ s.lateTolerance → s.cues.length < 256 →
          exec i s =
            .next (({ u with cues := insertCue (cue V) s.cues }.reply a .late
              (words48 V ++ [wordNat (V.toNat - A.toNat), wordNat (s.cues.length + 1)])).settle)) ∧
        (A < V → s.lateTolerance < V.toNat - A.toNat →
          exec i s = .next ((u.refuse a .tooLate (words48 V ++ [wordNat (min (V.toNat - A.toNat) 65535)])).settle)) ∧
        (V ≤ A ∨ V.toNat - A.toNat ≤ s.lateTolerance → 256 ≤ s.cues.length →
          exec i s = .next ((u.refuse a .queueFull []).settle)))

/-- CANCEL CUES, READ CUES and SET LATE TOLERANCE (R98, R99, R93). -/
def Obligations.CueQueueCommandsAct : Prop :=
  ∀ (h : Hdr) (s : State),
    let u := s.handed h
    (∀ tag, s.Ready (.cancelCues h tag) h →
      let kept := s.cues.filter fun c => !decide (c.tag = tag ∧ c.origin = h.link)
      exec (.cancelCues h tag) s =
        .next (({ u with cues := kept }.reply (askOf h (.cancelCues h tag) .cue) .ok
          [wordNat (s.cues.length - kept.length), wordNat kept.length]).settle)) ∧
    (s.Ready (.readCues h) h →
      exec (.readCues h) s =
        .next ((u.reply (askOf h (.readCues h) .cue) .ok
          (wordNat s.cues.length ::
            ((match s.cues with | c :: _ => words48 c.time | [] => [BitVec.allOnes 32, BitVec.allOnes 32]) ++
              [wordNat (s.cues.filter fun c => decide (c.origin = .l0)).length, wordNat (s.cues.filter fun c => decide (c.origin = .l1)).length,
                wordNat s.lateTolerance]))).settle)) ∧
    (∀ n, s.Ready (.setLateTolerance h n) h →
      exec (.setLateTolerance h n) s =
        .next (({ u with lateTolerance := min n 9600 }.reply (askOf h (.setLateTolerance h n) .device) .ok
          [wordNat (min n 9600)]).settle))

/-- CUE_APPLY between instants of RUN: the due cues leave the queue, in order, and each is applied, and the instant has begun (R94).
A cue applied (R95, R96, R15, R20, R138): a route in a range of a block operation is refused with BLOCK_RANGE; an EMPTY route and a
CLOSED feed give CUE_TARGET_GONE (the range first: log entry 8; the acknowledged flag as the word 1 or 0: log entry 11); otherwise
it has the untimed command's effect, with no report of its own: a DRAIN makes a feed with samples DRAINING, leaves a DRAINING one,
and closes an empty one at once, with the STATE event of R55. That the first stage is a row, which leaves the instant in progress,
is log entry 15. -/
def Obligations.CuesAreAppliedAtTheirTime : Prop :=
  (∀ s : State, s.engine = .run → s.instant = none →
    exec .cueApply s =
      .next (({ (s.cues.filter fun (c : Cue) => decide (c.time ≤ s.houseTime)).foldl State.applyCue
            { s with cues := s.cues.filter fun (c : Cue) => !decide (c.time ≤ s.houseTime) } with
          instant := some InstantWork.initial }).settle)) ∧
  ∀ (c : Cue) (s : State),
    let gone := fun (code : Word) (sub : Subject) =>
      s.event .cueTargetGone c.tag .ok sub (code :: words48 c.time ++ [wordNat c.origin.num, if c.acked then 1 else 0])
    (∀ i T L, c.command = .routeGain i T L →
      (s.routeInBlock i = true → s.applyCue c = s.event .commandRefused c.tag .blockRange (.route i) [0x10]) ∧
      (s.routeInBlock i = false → s.routeAt i = none → s.applyCue c = gone 0x10 (.route i)) ∧
      (∀ r, s.routeInBlock i = false → s.routeAt i = some r →
        s.applyCue c = s.setEntry .route i (.route
          (if L = 0 then { r with current := T * 65536, target := T, remaining := 0, step := 0 }
          else { r with target := T, remaining := L, step := ((T : Int) * 65536 - r.current).tdiv L })))) ∧
    (∀ b T, c.command = .busTrim b T → s.applyCue c = s.setBus b { s.bus b with trim := min T 32768 }) ∧
    (∀ b m on, c.command = .busMute b m → onOff? m = some on → s.applyCue c = s.setBus b { s.bus b with mute := on }) ∧
    (∀ b m f md, c.command = .busMode b m f → busMode? m = some md →
      s.applyCue c = s.setBus b { s.bus b with mode := md, soloFeed := f }) ∧
    (∀ f m, c.command = .closeFeed f m →
      ((s.feed f).state = .closed → s.applyCue c = gone 0x23 (.feed f)) ∧
      ((s.feed f).state ≠ .closed → m = 1 → s.applyCue c = s.closeFeed f) ∧
      ((s.feed f).state ≠ .closed → (s.feed f).state ≠ .draining → (s.feed f).fill ≠ 0 → m = 2 →
        s.applyCue c = s.setFeed f { s.feed f with state := .draining, start := none }) ∧
      ((s.feed f).state = .draining → m = 2 → s.applyCue c = s) ∧
      ((s.feed f).state ≠ .closed → (s.feed f).state ≠ .draining → (s.feed f).fill = 0 → m = 2 →
        s.applyCue c = (s.closeFeed f).stickyEvent f .stateClosed .state [0, 0]))

/-! ### Classification (file 06) -/

/-- SET WINDOW, READ WINDOW, SET DEFAULT RULE and READ DEFAULT RULE, with their refusals in order (R107, R108, R113; their value
words: log entries 10 to 12; the link as the subject of the default-rule commands: log entry 14). -/
def Obligations.WindowsAndDefaultsAreSet : Prop :=
  (∀ (i : Instr) (h : Hdr) (s : State), s.Ready i h →
    let refused := fun sub st => exec i s = .next (((s.handed h).refuse (askOf h i sub) st []).settle)
    (∀ w en fl base mask tr dest cl, i = .setWindow h w en fl base mask tr dest cl →
      (7 < w → refused .device .badIndex) ∧
      (w ≤ 7 → ¬ (en ≤ 1 ∧ 1 ≤ fl ∧ fl ≤ 3 ∧ base ≤ 4095 ∧ mask ≤ 4095 ∧ tr ≤ 4095 ∧ dest ≤ 1 ∧ cl ≤ 1) →
        refused .device .badOperand)) ∧
    (∀ w cl, i = .readWindow h w cl →
      (7 < w → refused .device .badIndex) ∧ (w ≤ 7 → 1 < cl → refused .device .badOperand)) ∧
    (∀ link v feed cl, i = .setDefaultRule h link v feed cl →
      (1 < link ∨ 127 < feed → refused (.link link) .badIndex) ∧
      (link ≤ 1 → feed ≤ 127 → ¬ ((v = 1 ∨ v = 2) ∧ cl ≤ 1) → refused (.link link) .badOperand)) ∧
    (∀ link cl, i = .readDefaultRule h link cl →
      (1 < link → refused (.link link) .badIndex) ∧ (link ≤ 1 → 1 < cl → refused (.link link) .badOperand))) ∧
  ∀ (h : Hdr) (s : State),
    let u := s.handed h
    (∀ w en fl base mask tr dest cl on x l c, w ≤ 7 → onOff? en = some on → filter? fl = some x → base ≤ 4095 → mask ≤ 4095 →
      tr ≤ 4095 → Link.ofNat? dest = some l → onOff? cl = some c → s.Ready (.setWindow h w en fl base mask tr dest cl) h →
      exec (.setWindow h w en fl base mask tr dest cl) s =
        .next (((u.setWindow w
          { enabled := on, filter := x, base := base, mask := mask, translate := tr, destination := l,
            hits := if c then 0 else (s.window w).hits, drops := if c then 0 else (s.window w).drops }).reply
          (askOf h (.setWindow h w en fl base mask tr dest cl) .device) .ok
          [wordNat (s.window w).hits, wordNat (s.window w).drops]).settle)) ∧
    (∀ w cl c, w ≤ 7 → onOff? cl = some c → s.Ready (.readWindow h w cl) h →
      exec (.readWindow h w cl) s =
        .next (((u.setWindow w
          { s.window w with
            hits := if c then 0 else (s.window w).hits, drops := if c then 0 else (s.window w).drops }).reply
          (askOf h (.readWindow h w cl) .device) .ok
          [wordBool (s.window w).enabled, wordNat (s.window w).filter.num, wordNat (s.window w).base, wordNat (s.window w).mask,
            wordNat (s.window w).translate, wordNat (s.window w).destination.num, wordNat (s.window w).hits,
            wordNat (s.window w).drops]).settle)) ∧
    (∀ link v feed cl l x c, Link.ofNat? link = some l → verdict? v = some x → feed ≤ 127 → onOff? cl = some c →
      s.Ready (.setDefaultRule h link v feed cl) h →
      exec (.setDefaultRule h link v feed cl) s =
        .next (({ u with
            defaults := u.defaults.set l
              { verdict := x, feed := feed, hits := if c then 0 else (s.defaults.get l).hits } }.reply
          (askOf h (.setDefaultRule h link v feed cl) (.link link)) .ok [wordNat (s.defaults.get l).hits]).settle)) ∧
    (∀ link cl l c, Link.ofNat? link = some l → onOff? cl = some c → s.Ready (.readDefaultRule h link cl) h →
      exec (.readDefaultRule h link cl) s =
        .next (({ u with
            defaults := u.defaults.set l { s.defaults.get l with hits := if c then 0 else (s.defaults.get l).hits } }.reply
          (askOf h (.readDefaultRule h link cl) (.link link)) .ok
          [wordNat (s.defaults.get l).verdict.num, wordNat (s.defaults.get l).feed, wordNat (s.defaults.get l).hits]).settle))

/-- The decision for one sample frame (R101, R104, R105, R110 to R112, R114): the lowest matching window forwards it; else CONFIG
counts it; else the matching rule at the highest index, or the link's default rule, takes a hit and gives the verdict. A window takes
the frames that its filter admits and whose stream agrees with its base where the mask cares, and puts the translate's digits there;
a forwarded frame joins a queue of less than 32 on an UP link, and is counted as a drop otherwise. An ACTIVE rule matches where every
field agrees with its key where the key cares. ADMIT hands the frame to the feed, DISCARD counts it. -/
def Obligations.FramesAreClassified : Prop :=
  (∀ (w : Window) (l : Link) (st : Nat),
    (w.takes l st = true ↔
      w.enabled = true ∧ (w.filter = .either ∨ (w.filter = .link0 ∧ l = .l0) ∨ (w.filter = .link1 ∧ l = .l1)) ∧
        ∀ j, w.mask.testBit j = true → st.testBit j = w.base.testBit j) ∧
    (w.mask < 4096 → w.translate < 4096 → st < 4096 →
      ∀ j, (w.rewrite st).testBit j = if w.mask.testBit j then w.translate.testBit j else st.testBit j)) ∧
  (∀ (l : Link) (n : Nat) (fr : SampleFrame) (s : State),
    let a := s.arb l
    (s.linkUp l = true → a.passQueue.length < 32 →
      s.forward l n fr = s.setArb l { a with passQueue := a.passQueue ++ [{ window := n, frame := fr }] }) ∧
    (s.linkUp l = false ∨ 32 ≤ a.passQueue.length →
      s.forward l n fr = s.setWindow n { s.window n with drops := min ((s.window n).drops + 1) 4294967295 })) ∧
  (∀ (l : Link) (fr : SampleFrame) (i : Nat) (s : State),
    let agrees := fun (care value field : Nat) => ∀ j, care.testBit j = true → field.testBit j = value.testBit j
    let narrow := fun (r : Rule) =>
      r.active = true ∧ agrees r.key.linkC r.key.linkV l.num ∧ agrees r.key.streamC r.key.streamV fr.stream ∧
        agrees r.key.classC r.key.classV fr.contentClass
    (∀ r, s.entry .admission i = .narrow r → (s.ruleMatches l fr i = true ↔ narrow r)) ∧
    (∀ r w, s.entry .admission i = .wideHead r → s.entry .admission (i + 1) = .continuation w →
      (s.ruleMatches l fr i = true ↔
        narrow r ∧ agrees w.programC w.programV fr.program ∧ agrees w.languageC w.languageV fr.language ∧
          agrees w.rateC w.rateV fr.rateCode)) ∧
    (s.entry .admission i = .empty ∨ (∃ w, s.entry .admission i = .continuation w) → s.ruleMatches l fr i = false)) ∧
  (∀ (l : Link) (fr : SampleFrame) (f : Nat) (s : State),
    s.carryVerdict l fr .accept f = s.arrive l fr f ∧
      s.carryVerdict l fr .discard f = s.count l fun c => { c with discarded := min (c.discarded + 1) 4294967295 }) ∧
  ∀ (l : Link) (fr : SampleFrame) (s : State),
    (∀ n, n ≤ 7 → (s.window n).takes l fr.stream = true → (∀ m, m < n → (s.window m).takes l fr.stream = false) →
      s.classify l fr =
        (s.setWindow n { s.window n with hits := min ((s.window n).hits + 1) 4294967295 }).forward (s.window n).destination n
          { fr with stream := (s.window n).rewrite fr.stream }) ∧
    ((∀ n, n ≤ 7 → (s.window n).takes l fr.stream = false) → s.engine = .config →
      s.classify l fr = s.count l fun c => { c with engineStopped := min (c.engineStopped + 1) 4294967295 }) ∧
    (∀ i r, (∀ n, n ≤ 7 → (s.window n).takes l fr.stream = false) → s.engine = .run → i < s.tableSize .admission →
      s.ruleMatches l fr i = true → (∀ j, i < j → j < s.tableSize .admission → s.ruleMatches l fr j = false) →
      s.entry .admission i = .narrow r →
      s.classify l fr =
        (s.setEntry .admission i (.narrow { r with hits := min (r.hits + 1) 65535 })).carryVerdict l fr r.verdict r.feed) ∧
    (∀ i r, (∀ n, n ≤ 7 → (s.window n).takes l fr.stream = false) → s.engine = .run → i < s.tableSize .admission →
      s.ruleMatches l fr i = true → (∀ j, i < j → j < s.tableSize .admission → s.ruleMatches l fr j = false) →
      s.entry .admission i = .wideHead r →
      s.classify l fr =
        (s.setEntry .admission i (.wideHead { r with hits := min (r.hits + 1) 65535 })).carryVerdict l fr r.verdict r.feed) ∧
    ((∀ n, n ≤ 7 → (s.window n).takes l fr.stream = false) → s.engine = .run →
      (∀ j, j < s.tableSize .admission → s.ruleMatches l fr j = false) →
      s.classify l fr =
        { s with
          defaults := s.defaults.set l
            { s.defaults.get l with hits := min ((s.defaults.get l).hits + 1) 4294967295 } }.carryVerdict l fr
          (s.defaults.get l).verdict (s.defaults.get l).feed)

/-! ### Tables (file 07) -/

/-- ASSIGN BANK appends a free bank to a table's list in CONFIG (R119), and STAGE RULE, STAGE ROUTE and CLEAR STAGING replace the
image of their own link's staging record (R121, R122); their refusals in order. The image kinds 0 to 3 in the replies' words are
numbered by R155 as log entry 12 gives. -/
def Obligations.BanksAndImagesArePlaced : Prop :=
  (∀ (i : Instr) (h : Hdr) (s : State), s.Ready i h →
    let refused := fun st => exec i s = .next (((s.handed h).refuse (askOf h i .device) st []).settle)
    (∀ b t, i = .assignBank h b t →
      (s.engine = .run → refused .wrongState) ∧ (s.engine = .config → 15 < b → refused .badIndex) ∧
      (s.engine = .config → b ≤ 15 → t ≠ 1 → t ≠ 2 → refused .badOperand) ∧
      (s.engine = .config → b ≤ 15 → t = 1 ∨ t = 2 → b ∈ s.admissionBanks ∨ b ∈ s.routeBanks → refused .bankTaken)) ∧
    (∀ kind st k wide v f, i = .stageRule h kind st k wide v f →
      let good :=
        ((kind = 1 ∧ wide = none) ∨
          (kind = 2 ∧ ∃ w, wide = some w ∧ w.programV < 256 ∧ w.programC < 256 ∧ w.languageV < 256 ∧ w.languageC < 256 ∧
            w.rateV < 4 ∧ w.rateC < 4)) ∧
        (st = 1 ∨ st = 2) ∧ (v = 1 ∨ v = 2) ∧ k.linkV < 2 ∧ k.linkC < 2 ∧ k.streamV < 4096 ∧ k.streamC < 4096 ∧
          k.classV < 16 ∧ k.classC < 16
      (¬ good → refused .badOperand) ∧ (good → 127 < f → refused .badIndex)) ∧
    (∀ f b p g, i = .stageRoute h f b p g →
      (127 < f ∨ 63 < b → refused .badIndex) ∧ (f ≤ 127 → b ≤ 63 → p ≠ 1 → p ≠ 2 → refused .badOperand))) ∧
  ∀ (h : Hdr) (s : State),
    let u := s.handed h
    (∀ b, b ≤ 15 → b ∉ s.admissionBanks → b ∉ s.routeBanks → s.engine = .config → s.Ready (.assignBank h b 1) h →
      exec (.assignBank h b 1) s =
        .next (({ u with admissionBanks := s.admissionBanks ++ [b] }.reply (askOf h (.assignBank h b 1) .device) .ok
          [wordNat (s.admissionBanks.length * 128), wordNat (s.admissionBanks.length * 128 + 128)]).settle)) ∧
    (∀ b, b ≤ 15 → b ∉ s.admissionBanks → b ∉ s.routeBanks → s.engine = .config → s.Ready (.assignBank h b 2) h →
      exec (.assignBank h b 2) s =
        .next (({ u with routeBanks := s.routeBanks ++ [b] }.reply (askOf h (.assignBank h b 2) .device) .ok
          [wordNat (s.routeBanks.length * 128), wordNat (s.routeBanks.length * 128 + 128)]).settle)) ∧
    (∀ st key v f act x, ruleState? st = some act → verdict? v = some x → narrowKeyFits key = true → f ≤ 127 →
      s.Ready (.stageRule h 1 st key none v f) h →
      exec (.stageRule h 1 st key none v f) s =
        .next (({ u with staging := u.staging.set h.link (.narrow act key x f) }.reply
          (askOf h (.stageRule h 1 st key none v f) .device) .ok [1]).settle)) ∧
    (∀ st key w v f act x, ruleState? st = some act → verdict? v = some x → narrowKeyFits key = true →
      wideKeyFits w = true → f ≤ 127 → s.Ready (.stageRule h 2 st key (some w) v f) h →
      exec (.stageRule h 2 st key (some w) v f) s =
        .next (({ u with staging := u.staging.set h.link (.wide act key w x f) }.reply
          (askOf h (.stageRule h 2 st key (some w) v f) .device) .ok [2]).settle)) ∧
    (∀ f b p g x, f ≤ 127 → b ≤ 63 → polarity? p = some x → s.Ready (.stageRoute h f b p g) h →
      exec (.stageRoute h f b p g) s =
        .next (({ u with staging := u.staging.set h.link (.route f b x g) }.reply (askOf h (.stageRoute h f b p g) .device) .ok
          [3]).settle)) ∧
    (s.Ready (.clearStaging h) h →
      exec (.clearStaging h) s =
        .next (({ u with staging := u.staging.set h.link .empty }.reply (askOf h (.clearStaging h) .device) .ok [0]).settle))

/-- WRITE ENTRY to the route table (R123, R125), and to a table that is none (BAD_OPERAND): an index beyond the table, a rule image
and a slot under the range lock are refused; an EMPTY image deletes; a route image is refused over an ACTIVE route and for a feed
and bus already joined, and otherwise becomes an ACTIVE route standing at its gain. Yes and no in the reply: log entry 11. -/
def Obligations.RoutesAreWritten : Prop :=
  (∀ (h : Hdr) (t i : Nat) (s : State), t ≠ 1 → t ≠ 2 → s.Ready (.writeEntry h t i) h →
    exec (.writeEntry h t i) s = .next (((s.handed h).refuse (askOf h (.writeEntry h t i) .device) .badOperand []).settle)) ∧
  (∀ (h : Hdr) (i : Nat) (s : State), s.Ready (.writeEntry h 2 i) h →
    let u := s.handedBetween h
    let img := u.staging.get h.link
    let refused := fun st => exec (.writeEntry h 2 i) s = .next ((u.refuse (askOf h (.writeEntry h 2 i) (.route i)) st []).settle)
    let rule := (∃ act k v f, img = .narrow act k v f) ∨ ∃ act k w v f, img = .wide act k w v f
    (u.tableSize .route ≤ i → refused .badIndex) ∧ (i < u.tableSize .route → rule → refused .wrongTable) ∧
    (i < u.tableSize .route → ¬ rule → u.locked .route [i] = true → refused .blockRange)) ∧
  ∀ (h : Hdr) (i : Nat) (s : State), s.Ready (.writeEntry h 2 i) h →
    let u := s.handedBetween h
    let a := askOf h (.writeEntry h 2 i) (.route i)
    i < u.tableSize .route → u.locked .route [i] = false →
    (u.staging.get h.link = .empty →
      exec (.writeEntry h 2 i) s = .next (((u.setEntry .route i .empty).reply a .ok [wordNat i, 0]).settle)) ∧
    (∀ f b p g, u.staging.get h.link = .route f b p g → u.routeAt i ≠ none →
      exec (.writeEntry h 2 i) s = .next ((u.refuse a .occupied []).settle)) ∧
    (∀ f b p g j r, u.staging.get h.link = .route f b p g → u.routeAt i = none → j < u.tableSize .route →
      u.routeAt j = some r → r.feed = f → r.bus = b →
      exec (.writeEntry h 2 i) s = .next ((u.refuse a .duplicateRoute []).settle)) ∧
    (∀ f b p g, u.staging.get h.link = .route f b p g → u.routeAt i = none →
      (∀ j r, j < u.tableSize .route → u.routeAt j = some r → ¬ (r.feed = f ∧ r.bus = b)) →
      ∃ t : State, exec (.writeEntry h 2 i) s = .next ((t.reply a .ok [wordNat i, 1]).settle) ∧
        t.routeAt i =
          some { feed := f, bus := b, polarity := p, current := g * 65536, target := g, remaining := 0, step := 0 } ∧
        (∀ k, k ≠ u.slotKey .route i → t.slot k = u.slot k) ∧ t = { u with slots := t.slots })

/-- WRITE ENTRY to the admission table (R123, R124): the first five checks in their order; an EMPTY image deletes, and a narrow or
wide image stands at its index with hit count 0, in place of every DISABLED rule that held a touched slot, each removed whole: every
other touched slot is EMPTY, where the table's rules are whole. The reply counts the rules removed. Every slot outside the touched
ones, and everything else, is as it was. Touched are the slots that the image covers and the slots of every rule that holds one of
them. The range lock (R138) closes an operation's ranges in its table, but for the slots that blocked a stop and those of a rule that
stands over one of them (log entry 28). The kind's word is numbered as log entry 12 gives. -/
def Obligations.RulesAreWritten : Prop :=
  (∀ (s : State) (i j : Nat) (img : Image),
    j ∈ s.touched .admission i img ↔
      ∃ c, (c = i ∨ (img.isWide = true ∧ c = i + 1)) ∧ (j = c ∨ j ∈ s.ruleSlots c)) ∧
  (∀ (s : State) (c : Nat),
    (s.entry .admission c = .empty ∨ (∃ r, s.entry .admission c = .narrow r) → s.ruleSlots c = [c]) ∧
    (∀ hd r w, c = hd ∨ c = hd + 1 → s.entry .admission hd = .wideHead r → s.entry .admission (hd + 1) = .continuation w →
      s.ruleSlots c = [hd, hd + 1])) ∧
  (∀ (s : State) (t : TableId) (js : List Nat),
    s.locked t js = true ↔
      ∃ b j, s.block = some b ∧ b.table = t ∧ j ∈ js ∧
        ((b.first ≤ j ∧ j < b.first + b.count) ∨
          (b.kind = .move ∧ (b.first : Int) + b.offset ≤ j ∧ (j : Int) < (b.first : Int) + b.count + b.offset)) ∧
        ¬ ∃ r x ks, b.phase = .stopped r x ks ∧ (j ∈ ks ∨ (t = .admission ∧ ∃ c ∈ ks, j ∈ s.ruleSlots c))) ∧
  ∀ (h : Hdr) (i : Nat) (s : State), s.Ready (.writeEntry h 1 i) h →
    let u := s.handed h
    let a := askOf h (.writeEntry h 1 i) (.rule i)
    let img := s.staging.get h.link
    let refused := fun st => exec (.writeEntry h 1 i) s = .next ((u.refuse a st []).settle)
    let slots := s.touched .admission i img
    let good := i < s.tableSize .admission ∧ img.fits .admission = true ∧ (img.isWide = false ∨ i % 2 = 0)
    let free := img = .empty ∨ ∀ j ∈ slots, s.activeAt .admission j = false
    let removed := (List.range (s.tableSize .admission)).filter fun hd =>
      decide (hd ∈ slots) &&
        match s.entry .admission hd, s.entry .admission (hd + 1) with
        | .narrow _, _ | .wideHead _, .continuation _ => true
        | _, _ => false
    let written := fun (t : State) n =>
      exec (.writeEntry h 1 i) s = .next ((t.reply a .ok [wordNat i, n, wordNat removed.length]).settle) ∧
        t = { u with slots := t.slots } ∧ (∀ k, (∀ j ∈ slots, k ≠ s.slotKey .admission j) → t.slot k = s.slot k)
    (s.tableSize .admission ≤ i → refused .badIndex) ∧
    (i < s.tableSize .admission → img.fits .admission = false → refused .wrongTable) ∧
    (i < s.tableSize .admission → img.fits .admission = true → img.isWide = true → i % 2 = 1 → refused .badAlignment) ∧
    (good → s.locked .admission slots = true → refused .blockRange) ∧
    (good → s.locked .admission slots = false → ¬ free → refused .occupied) ∧
    (good → s.locked .admission slots = false → img = .empty →
      ∃ t : State, written t 0 ∧ ∀ j ∈ slots, t.entry .admission j = .empty) ∧
    (∀ act key v f, good → s.locked .admission slots = false → free → img = .narrow act key v f →
      ∃ t : State, written t 1 ∧
        t.entry .admission i = .narrow { active := act, key := key, verdict := v, feed := f, hits := 0 } ∧
        (s.RulesWhole → ∀ j ∈ slots, j ≠ i → t.entry .admission j = .empty)) ∧
    (∀ act key w v f, good → s.locked .admission slots = false → free → img = .wide act key w v f →
      ∃ t : State, written t 2 ∧
        t.entry .admission i = .wideHead { active := act, key := key, verdict := v, feed := f, hits := 0 } ∧
        t.entry .admission (i + 1) = .continuation w ∧
        (s.RulesWhole → ∀ j ∈ slots, j ≠ i → j ≠ i + 1 → t.entry .admission j = .empty))

/-- READ ENTRY (R126): the entry is copied to the staging record of the command's link and reported; of a wide rule, the head's
index, whichever of its two slots was named. ENABLE RULE and DISABLE RULE set the state of a narrow rule, and of a wide rule named
at either of its slots, and nothing else of it; an EMPTY slot is refused with BAD_INDEX (R127). Nothing else changes. An unknown
table, an index beyond the table and, for ENABLE RULE and DISABLE RULE, a slot of the rule under the range lock are refused. The
layout of the value words is log entries 10, 12 and 13. -/
def Obligations.RulesAreReadAndSwitched : Prop :=
  (∀ (h : Hdr) (t i : Nat) (s : State), s.Ready (.readEntry h t i) h →
    let refused := fun (u : State) sub st => exec (.readEntry h t i) s = .next ((u.refuse (askOf h (.readEntry h t i) sub) st []).settle)
    (t ≠ 1 → t ≠ 2 → refused (s.handed h) .device .badOperand) ∧
    (t = 1 → s.tableSize .admission ≤ i → refused (s.handed h) (.rule i) .badIndex) ∧
    (t = 2 → (s.handedBetween h).tableSize .route ≤ i → refused (s.handedBetween h) (.route i) .badIndex)) ∧
  (∀ (h : Hdr) (i : Nat) (cmd : Instr) (s : State), cmd = .enableRule h i ∨ cmd = .disableRule h i → s.Ready cmd h →
    let refused := fun st => exec cmd s = .next (((s.handed h).refuse (askOf h cmd (.rule i)) st []).settle)
    (s.tableSize .admission ≤ i → refused .badIndex) ∧
    (i < s.tableSize .admission → s.locked .admission (i :: s.ruleSlots i) = true → refused .blockRange)) ∧
  (∀ (h : Hdr) (i : Nat) (s : State),
    let staged := fun (u : State) t img sub ws =>
      exec (.readEntry h t i) s =
        .next (({ u with staging := s.staging.set h.link img }.reply (askOf h (.readEntry h t i) sub) .ok ws).settle)
    let x := s.handedBetween h
    (s.Ready (.readEntry h 2 i) h → i < x.tableSize .route →
      (∀ r, x.routeAt i = some r →
        staged x 2 (.route r.feed r.bus r.polarity r.target) (.route i)
          ([wordNat i, 3, wordNat (r.current / 65536), wordNat (r.current % 65536), wordNat r.target, wordNat r.remaining] ++
            wordsInt48 r.step)) ∧
      (x.routeAt i = none → staged x 2 .empty (.route i) [wordNat i, 0])) ∧
    (s.Ready (.readEntry h 1 i) h → i < s.tableSize .admission →
      (∀ r, s.entry .admission i = .narrow r →
        staged (s.handed h) 1 (.narrow r.active r.key r.verdict r.feed) (.rule i)
          ([wordNat i, 1, if r.active then 0 else 1] ++ narrowWords r.key ++
            [wordNat r.verdict.num, wordNat r.feed, wordNat r.hits])) ∧
      (∀ hd r w, i = hd ∨ i = hd + 1 → s.entry .admission hd = .wideHead r → s.entry .admission (hd + 1) = .continuation w →
        staged (s.handed h) 1 (.wide r.active r.key w r.verdict r.feed) (.rule i)
          ([wordNat hd, 2, if r.active then 0 else 1] ++ narrowWords r.key ++ wideWords w ++
            [wordNat r.verdict.num, wordNat r.feed, wordNat r.hits])) ∧
      (s.entry .admission i = .empty → staged (s.handed h) 1 .empty (.rule i) [wordNat i, 0]))) ∧
  ∀ (h : Hdr) (i : Nat) (act : Bool) (s : State),
    let cmd := if act then Instr.enableRule h i else Instr.disableRule h i
    let u := s.handed h
    let a := askOf h cmd (.rule i)
    s.Ready cmd h → i < s.tableSize .admission → s.locked .admission (i :: s.ruleSlots i) = false →
    (∀ r, s.entry .admission i = .narrow r →
      exec cmd s =
        .next (((u.setEntry .admission i (.narrow { r with active := act })).reply a .ok
          [wordNat i, if r.active then 0 else 1, if act then 0 else 1]).settle)) ∧
    (∀ hd r w, i = hd ∨ i = hd + 1 → s.entry .admission hd = .wideHead r → s.entry .admission (hd + 1) = .continuation w →
      exec cmd s =
        .next (((u.setEntry .admission hd (.wideHead { r with active := act })).reply a .ok
          [wordNat hd, if r.active then 0 else 1, if act then 0 else 1]).settle)) ∧
    (s.entry .admission i = .empty → exec cmd s = .next ((u.refuse a .badIndex []).settle))

/-! ### Block operations (file 07) -/

/-- MOVE, FILL, SCAN and CLEAR HITS that pass their checks fill the context, hold the reply's place when acknowledged, and answer
nothing yet (R129 to R135, R139); while an operation exists each is refused with BUSY, and the operation is not touched (R130). The
other refusals in their order: an unknown table or mode or a count of 0; a range beyond the table; the operation's own checks; and on
the admission table a range whose first index is a continuation or whose last is a head. -/
def Obligations.BlockOperationsStartOrAreBusy : Prop :=
  (∀ (s : State) (t : TableId) (first count : Nat),
    s.splits t first count = true ↔
      t = .admission ∧ ((∃ w, s.entry .admission first = .continuation w) ∨
        ∃ r, s.entry .admission (first + count - 1) = .wideHead r)) ∧
  (∀ (i : Instr) (h : Hdr) (s : State), s.block = none → s.Ready i h →
    let refused := fun st => exec i s = .next (((s.handed h).refuse (askOf h i .block) st []).settle)
    let img := s.staging.get h.link
    (∀ n source dest count, i = .move h n source dest count →
      ((n ≠ 1 ∧ n ≠ 2) ∨ count = 0 → refused .badOperand) ∧
      ∀ t : TableId, n = t.num + 1 → 1 ≤ count →
        let fits := source + count ≤ s.tableSize t ∧ dest + count ≤ s.tableSize t
        (¬ fits → refused .badIndex) ∧ (fits → dest = source → refused .badOperand) ∧
        (fits → dest ≠ source → t = .admission → (dest + source) % 2 = 1 → refused .badAlignment) ∧
        (fits → dest ≠ source → s.splits t source count = true → refused .badAlignment)) ∧
    (∀ n first count, i = .fill h n first count →
      ((n ≠ 1 ∧ n ≠ 2) ∨ count = 0 → refused .badOperand) ∧
      ∀ t : TableId, n = t.num + 1 → 1 ≤ count →
        let fits := first + count ≤ s.tableSize t
        let suits := img.fits t = true ∧ (t = .route → img = .empty)
        (¬ fits → refused .badIndex) ∧ (fits → img.fits t = false → refused .wrongTable) ∧
        (fits → img.fits t = true → ¬ suits → refused .badOperand) ∧
        (fits → suits → img.isWide = true → first % 2 = 1 ∨ count % 2 = 1 → refused .badAlignment) ∧
        (fits → suits → s.splits t first count = true → refused .badAlignment)) ∧
    (∀ n first count sel mode, i = .scan h n first count sel mode →
      ((n ≠ 1 ∧ n ≠ 2) ∨ (mode ≠ 1 ∧ mode ≠ 2) ∨ count = 0 → refused .badOperand) ∧
      ∀ t : TableId, n = t.num + 1 → mode = 1 ∨ mode = 2 → 1 ≤ count →
        let fits := first + count ≤ s.tableSize t
        let listed := 1 ≤ sel ∧ sel < (match t with | .admission => 1024 | .route => 32) ∧ (img = .empty → sel = 1)
        let narrowOnly := ¬ (img.isNarrow = true ∧ (sel.testBit 5 = true ∨ sel.testBit 6 = true ∨ sel.testBit 7 = true))
        (¬ fits → refused .badIndex) ∧ (fits → ¬ listed → refused .badOperand) ∧
        (fits → listed → img.fits t = false → refused .wrongTable) ∧
        (fits → listed → img.fits t = true → ¬ narrowOnly → refused .badOperand) ∧
        (fits → listed → img.fits t = true → narrowOnly → s.splits t first count = true → refused .badAlignment)) ∧
    (∀ first count, i = .clearHits h first count →
      (count = 0 → refused .badOperand) ∧ (1 ≤ count → s.tableSize .admission < first + count → refused .badIndex) ∧
      (1 ≤ count → first + count ≤ s.tableSize .admission → s.splits .admission first count = true → refused .badAlignment))) ∧
  (∀ (h : Hdr) (t : TableId) (first count : Nat) (s : State),
    let n := t.num + 1
    let img := s.staging.get h.link
    let starts := fun (i : Instr) (b : Block) =>
      exec i s = .next ({ s.handed h with block := some b, heldPlace := h.acked }.settle)
    s.block = none → 1 ≤ count → first + count ≤ s.tableSize t → s.splits t first count = false →
    (∀ dest, s.Ready (.move h n first dest count) h → dest + count ≤ s.tableSize t → dest ≠ first →
      (t = .admission → (dest + first) % 2 = 0) →
      starts (.move h n first dest count)
        { kind := .move, table := t, first := first, count := count, offset := (dest : Int) - first,
          descending := decide (first < dest), image := .empty, selector := 0, mode := .untilEqual,
          next := if first < dest then first + count - 1 else first, remaining := count, origin := h.link, tag := h.tag,
          acked := h.acked, phase := .running }) ∧
    (s.Ready (.fill h n first count) h → img.fits t = true → (t = .route → img = .empty) →
      (img.isWide = true → first % 2 = 0 ∧ count % 2 = 0) →
      starts (.fill h n first count)
        { kind := .fill, table := t, first := first, count := count, offset := 0, descending := false, image := img,
          selector := 0, mode := .untilEqual, next := first, remaining := count, origin := h.link, tag := h.tag,
          acked := h.acked, phase := .running }) ∧
    (∀ sel mode m, s.Ready (.scan h n first count sel mode) h → scanMode? mode = some m → 1 ≤ sel →
      sel < 2 ^ scanFields t → (img = .empty → sel = 1) → img.fits t = true → (img.isNarrow = true → selectsWide sel = false) →
      starts (.scan h n first count sel mode)
        { kind := .scan, table := t, first := first, count := count, offset := 0, descending := false, image := img,
          selector := sel, mode := m, next := first, remaining := count, origin := h.link, tag := h.tag, acked := h.acked,
          phase := .running }) ∧
    (t = .admission → s.Ready (.clearHits h first count) h →
      starts (.clearHits h first count)
        { kind := .clearHits, table := .admission, first := first, count := count, offset := 0, descending := false,
          image := .empty, selector := 0, mode := .untilEqual, next := first, remaining := count, origin := h.link,
          tag := h.tag, acked := h.acked, phase := .running })) ∧
  ∀ (h : Hdr) (i : Instr) (s : State), s.block ≠ none → s.Ready i h →
    (∃ t x y n, i = .move h t x y n) ∨ (∃ t x n, i = .fill h t x n) ∨ (∃ t x n sel m, i = .scan h t x n sel m) ∨
      (∃ x n, i = .clearHits h x n) →
    exec i s = .next (((s.handed h).refuse (askOf h i .block) .busy []).settle)

/-- SUSPEND BLOCK, RESUME BLOCK and ABANDON BLOCK: NO_BLOCK when IDLE; the states of R136's table; and ABANDON's reply, then the
operation's end report, which for an acknowledged start is its reply in the held place (R136, R137, R139; phases as words: log entry
12). -/
def Obligations.BlockOperationsAreControlled : Prop :=
  ∀ (h : Hdr) (s : State),
    let u := s.handed h
    (∀ i, i = .suspendBlock h ∨ i = .resumeBlock h ∨ i = .abandonBlock h → s.block = none → s.Ready i h →
      exec i s = .next ((u.refuse (askOf h i .block) .noBlock []).settle)) ∧
    (∀ b, s.block = some b → s.Ready (.suspendBlock h) h → b.phase = .running ∨ b.phase = .suspended →
      exec (.suspendBlock h) s =
        .next (({ u with block := some { b with phase := .suspended } }.reply (askOf h (.suspendBlock h) .block) .ok
          [2, wordNat b.next, wordNat b.remaining]).settle)) ∧
    (∀ b r j js, s.block = some b → s.Ready (.suspendBlock h) h → b.phase = .stopped r j js →
      exec (.suspendBlock h) s =
        .next ((u.reply (askOf h (.suspendBlock h) .block) .ok [3, wordNat b.next, wordNat b.remaining]).settle)) ∧
    (∀ b, s.block = some b → s.Ready (.resumeBlock h) h →
      exec (.resumeBlock h) s =
        .next (({ u with block := some { b with phase := .running } }.reply (askOf h (.resumeBlock h) .block) .ok
          [1, wordNat b.next, wordNat b.remaining]).settle)) ∧
    (∀ b, s.block = some b → s.Ready (.abandonBlock h) h → b.acked = true →
      exec (.abandonBlock h) s =
        .next (({ u.reply (askOf h (.abandonBlock h) .block) .ok [wordNat b.next, wordNat b.remaining] with
            block := none, heldPlace := false }.pushReport
          { earlierLost := false, kind := .reply, code := b.kind.code, tag := b.tag, status := .abandoned, subject := .block,
            time := 0,
            words := [wordNat b.kind.num, wordNat b.table.num, wordNat b.next, wordNat b.remaining] }).settle)) ∧
    (∀ b, s.block = some b → s.Ready (.abandonBlock h) h → b.acked = false →
      exec (.abandonBlock h) s =
        .next (({ u.reply (askOf h (.abandonBlock h) .block) .ok [wordNat b.next, wordNat b.remaining] with
            block := none }.event .blockEnd b.tag .abandoned .block
          [wordNat b.kind.num, wordNat b.table.num, wordNat b.next, wordNat b.remaining]).settle))

/-- A step of a MOVE that is RUNNING (R132, R136, R139). Over an EMPTY slot it only goes on; a route, a narrow rule, and a wide rule
with both its slots, is carried whole to EMPTY destination slots; where a destination slot is filled the operation stops, no
slot changes, and BLOCK_STOPPED is sent. At the end of the range the operation ends with DONE. The stop reason as a
word: log entry 12. -/
def Obligations.MoveStepsCarryEntries : Prop :=
  ∀ (b : Block) (s : State), s.block = some b → b.kind = .move → b.phase = .running →
    let u := if b.table = .route then s.finishInstant else s
    let d := fun (j : Nat) => ((j : Int) + b.offset).toNat
    let report := fun st (v : State) (w : Word) =>
      if b.acked then
        { v with block := none, heldPlace := false }.pushReport
          { earlierLost := false, kind := .reply, code := 0x48, tag := b.tag, status := st, subject := .block, time := 0,
            words := [0, wordNat b.table.num, w, 0] }
      else { v with block := none }.event .blockEnd b.tag st .block [0, wordNat b.table.num, w, 0]
    let goes := fun (v : State) (n : Nat) =>
      if b.remaining ≤ n then report .done v (BitVec.allOnes 32)
      else { v with
        block := some { b with next := if b.descending then b.next - n else b.next + n, remaining := b.remaining - n } }
    let stops := fun j (js : List Nat) =>
      { u with block := some { b with phase := .stopped .destOccupied j js } }.event .blockStopped b.tag .destOccupied .block
        [0, 0, wordNat j, wordNat b.next, wordNat b.remaining]
    (u.entry b.table b.next = .empty → exec .moveStep s = .next ((goes u 1).settle)) ∧
    (∀ x, (∃ r, x = .route r ∧ b.table = .route) ∨ (∃ r, x = .narrow r ∧ b.table = .admission) →
      u.entry b.table b.next = x →
      (u.entry b.table (d b.next) = .empty →
        exec .moveStep s = .next ((goes ((u.setEntry b.table (d b.next) x).setEntry b.table b.next .empty) 1).settle)) ∧
      (u.entry b.table (d b.next) ≠ .empty → (∀ w, u.entry b.table (d b.next) ≠ .continuation w) →
        exec .moveStep s = .next ((stops (d b.next) [d b.next]).settle)) ∧
      (∀ w, b.table = .admission → u.entry .admission (d b.next) = .continuation w →
        exec .moveStep s = .next ((stops (d b.next - 1) [d b.next]).settle))) ∧
    (∀ hd r w, b.table = .admission → b.next = hd ∨ b.next = hd + 1 → u.entry .admission hd = .wideHead r →
      u.entry .admission (hd + 1) = .continuation w →
      (u.entry .admission (d hd) = .empty → u.entry .admission (d (hd + 1)) = .empty →
        exec .moveStep s =
          .next ((goes ((((u.setEntry .admission (d hd) (.wideHead r)).setEntry .admission hd .empty).setEntry .admission
            (d (hd + 1)) (.continuation w)).setEntry .admission (hd + 1) .empty) 2).settle)) ∧
      (∀ q, u.entry .admission (d hd) = .narrow q → u.entry .admission (d (hd + 1)) = .empty →
        exec .moveStep s = .next ((stops (d hd) [d hd]).settle)) ∧
      (∀ q, u.entry .admission (d hd) = .empty → u.entry .admission (d (hd + 1)) = .narrow q →
        exec .moveStep s = .next ((stops (d (hd + 1)) [d (hd + 1)]).settle)) ∧
      (∀ q, u.entry .admission (d hd) = q → (∃ n, q = .narrow n) ∨ (∃ n, q = .wideHead n) →
        u.entry .admission (d (hd + 1)) ≠ .empty →
        exec .moveStep s = .next ((stops (d hd) [d hd, d (hd + 1)]).settle)))

/-- A step of a FILL, a SCAN or a CLEAR HITS that is RUNNING (R133 to R135, R136, R139). FILL writes its image as WRITE ENTRY would,
or stops over an ACTIVE entry; SCAN ends with FOUND at an entry that matches; CLEAR HITS clears a rule's count. Each takes a wide
rule's two slots together, goes on, and at the end of the range ends with DONE, or SCAN with NOT_FOUND. What SCAN compares: each
selected field must be equal, or one of them different. A rule of the other kind differs in KIND, a narrow rule differs from a wide
image in PROGRAM, LANGUAGE and RATE, and an EMPTY slot differs from a rule or route image in every field; an EMPTY image, of which
only STATE can be selected, equals an EMPTY slot alone. The kinds, tables, reasons and fields as words and bits: log entry 12 and
R134. That FILL removes a DISABLED rule whole also across its range's edge is log entry 29. -/
def Obligations.StepsFillScanAndClearEntries : Prop :=
  (∀ (b : Block) (s : State), s.block = some b → b.phase = .running → Cells.wf Slot.empty s.slots →
    let u := if b.table = .route then s.finishInstant else s
    let report := fun st (v : State) (w : Word) n =>
      if b.acked then
        { v with block := none, heldPlace := false }.pushReport
          { earlierLost := false, kind := .reply, code := b.kind.code, tag := b.tag, status := st, subject := .block, time := 0,
            words := [wordNat b.kind.num, wordNat b.table.num, w, n] }
      else { v with block := none }.event .blockEnd b.tag st .block [wordNat b.kind.num, wordNat b.table.num, w, n]
    let goes := fun st (v : State) (n : Nat) =>
      if b.remaining ≤ n then report st v (BitVec.allOnes 32) 0
      else { v with
        block := some { b with next := if b.descending then b.next - n else b.next + n, remaining := b.remaining - n } }
    let slots := if b.image.isWide then [b.next, b.next + 1] else [b.next]
    let wide := fun hd => ∃ r w, u.entry .admission hd = .wideHead r ∧ u.entry .admission (hd + 1) = .continuation w
    (b.kind = .fill → b.image = .empty ∨ (∀ j ∈ slots, u.activeAt b.table j = false) →
      exec .fillStep s = .next ((goes .done (u.putImage b.table b.next b.image) slots.length).settle)) ∧
    (∀ j js, b.kind = .fill → b.image ≠ .empty → b.table = .admission → slots.filter (u.activeAt .admission) = j :: js →
      exec .fillStep s =
        .next (({ u with block := some { b with phase := .stopped .occupied (u.ruleIndex j) (j :: js) } }.event .blockStopped
          b.tag .occupied .block
          [1, 1, wordNat (u.ruleIndex j), wordNat b.next, wordNat b.remaining]).settle)) ∧
    (b.kind = .scan → b.scanMatches (u.imageAt b.table b.next) = true →
      exec .scanStep s = .next ((report .found u (wordNat b.next) (wordNat b.remaining)).settle)) ∧
    (b.kind = .scan → b.scanMatches (u.imageAt b.table b.next) = false → b.table = .admission → wide b.next →
      exec .scanStep s = .next ((goes .notFound u 2).settle)) ∧
    (b.kind = .scan → b.scanMatches (u.imageAt b.table b.next) = false →
      b.table = .route ∨ u.entry .admission b.next = .empty ∨ (∃ r, u.entry .admission b.next = .narrow r) →
      exec .scanStep s = .next ((goes .notFound u 1).settle)) ∧
    (∀ r, b.kind = .clearHits → b.table = .admission → u.entry .admission b.next = .narrow r →
      exec .clearHitsStep s =
        .next ((goes .done (u.setEntry .admission b.next (.narrow { r with hits := 0 })) 1).settle)) ∧
    (∀ r w, b.kind = .clearHits → b.table = .admission → u.entry .admission b.next = .wideHead r →
      u.entry .admission (b.next + 1) = .continuation w →
      exec .clearHitsStep s =
        .next ((goes .done (u.setEntry .admission b.next (.wideHead { r with hits := 0 })) 2).settle)) ∧
    (b.kind = .clearHits → b.table = .admission → u.entry .admission b.next = .empty →
      exec .clearHitsStep s = .next ((goes .done u 1).settle))) ∧
  (∀ (s : State) (i : Nat),
    (∀ t, s.entry t i = .empty → s.imageAt t i = .empty) ∧
    (∀ r, s.entry .route i = .route r → s.imageAt .route i = .route r.feed r.bus r.polarity r.target) ∧
    (∀ r, s.entry .admission i = .narrow r → s.imageAt .admission i = .narrow r.active r.key r.verdict r.feed) ∧
    (∀ r w, s.entry .admission i = .wideHead r → s.entry .admission (i + 1) = .continuation w →
      s.imageAt .admission i = .wide r.active r.key w r.verdict r.feed)) ∧
  ∀ (b : Block),
    let selects := fun j => b.selector.testBit j = true
    let compares := fun (e : Image) (equal : Prop) =>
      (b.mode = .untilEqual → (b.scanMatches e = true ↔ equal)) ∧ (b.mode = .untilDifferent → (b.scanMatches e = true ↔ ¬ equal))
    let rules := fun (a a' : Bool) (k k' : NarrowKey) (v v' : Verdict) (f f' : Nat) =>
      (selects 0 → a' = a) ∧ (selects 2 → k'.linkV = k.linkV ∧ k'.linkC = k.linkC) ∧
        (selects 3 → k'.streamV = k.streamV ∧ k'.streamC = k.streamC) ∧
        (selects 4 → k'.classV = k.classV ∧ k'.classC = k.classC) ∧ (selects 8 → v' = v) ∧ (selects 9 → f' = f)
    (∀ a k v f, b.table = .admission → b.selector < 1024 → b.image = .narrow a k v f →
      ¬ (selects 5 ∨ selects 6 ∨ selects 7) →
      (∀ a' k' v' f', compares (.narrow a' k' v' f') (rules a a' k k' v v' f f')) ∧
      (∀ a' k' w' v' f', compares (.wide a' k' w' v' f') (¬ selects 1 ∧ rules a a' k k' v v' f f')) ∧
      (1 ≤ b.selector → compares .empty False)) ∧
    (∀ a k w v f, b.table = .admission → b.selector < 1024 → b.image = .wide a k w v f →
      (∀ a' k' w' v' f', compares (.wide a' k' w' v' f')
        (rules a a' k k' v v' f f' ∧ (selects 5 → w'.programV = w.programV ∧ w'.programC = w.programC) ∧
          (selects 6 → w'.languageV = w.languageV ∧ w'.languageC = w.languageC) ∧
          (selects 7 → w'.rateV = w.rateV ∧ w'.rateC = w.rateC))) ∧
      (∀ a' k' v' f', compares (.narrow a' k' v' f')
        (¬ (selects 1 ∨ selects 5 ∨ selects 6 ∨ selects 7) ∧ rules a a' k k' v v' f f')) ∧
      (1 ≤ b.selector → compares .empty False)) ∧
    (∀ f u p g, b.table = .route → b.selector < 32 → b.image = .route f u p g →
      (∀ f' u' p' g', compares (.route f' u' p' g')
        ((selects 1 → f' = f) ∧ (selects 2 → u' = u) ∧ (selects 3 → p' = p) ∧ (selects 4 → g' = g))) ∧
      (1 ≤ b.selector → compares .empty False)) ∧
    (b.selector = 1 → b.image = .empty → compares .empty True ∧ ∀ e, e ≠ .empty → compares e False)

/-! ### Links (files 08 and 09) -/

/-- SET LINK ROLE, SET REPORT LINK and READ LINK COUNTERS, with their refusals (R160, R161, R150). -/
def Obligations.LinkCommandsAct : Prop :=
  (∀ (i : Instr) (h : Hdr) (link : Nat) (s : State), s.Ready i h →
    let refused := fun st => exec i s = .next (((s.handed h).refuse (askOf h i (.link link)) st []).settle)
    ((∃ role, i = .setLinkRole h link role) ∨ i = .setReportLink h link ∨ (∃ clear, i = .readLinkCounters h link clear) →
      1 < link → refused .badIndex) ∧
    (∀ role, i = .setLinkRole h link role → link ≤ 1 → role = 0 ∨ 3 < role → refused .badOperand) ∧
    (∀ clear, i = .readLinkCounters h link clear → link ≤ 1 → 1 < clear → refused .badOperand)) ∧
  ∀ (h : Hdr) (link : Nat) (l : Link) (s : State), Link.ofNat? link = some l →
    let u := s.handed h
    (∀ role r, role? role = some r → s.Ready (.setLinkRole h link role) h →
      exec (.setLinkRole h link role) s =
        .next (({ u with roles := s.roles.set l r }.reply (askOf h (.setLinkRole h link role) (.link link)) .ok
          [wordNat (s.roles.get l).num, wordNat r.num]).settle)) ∧
    (s.Ready (.setReportLink h link) h →
      exec (.setReportLink h link) s =
        .next (({ u with reportLink := l }.reply (askOf h (.setReportLink h link) (.link link)) .ok
          [wordNat s.reportLink.num, wordNat link]).settle)) ∧
    (∀ clear c, onOff? clear = some c → s.Ready (.readLinkCounters h link clear) h →
      let x := s.links.get l
      exec (.readLinkCounters h link clear) s =
        .next (({ u with links := s.links.set l { x with counters := if c then Counters.initial else x.counters } }.reply
          (askOf h (.readLinkCounters h link clear) (.link link)) .ok
          [if x.up then 0 else 1, wordNat x.counters.good, wordNat x.counters.badCheck, wordNat x.counters.badForm,
            wordNat x.counters.engineStopped, wordNat x.counters.discarded, wordNat x.counters.stray,
            wordNat x.counters.drained, wordNat x.counters.controlDropped]).settle))

/-- LINK_SAMPLE (R140, R142): the last three samples are kept; three that all disagree with the link state change it, with a LINK
event, and a link that goes DOWN loses its credits, its queues, its due frame and the frame being sent, the windows counting the
pass-through frames lost (the due frame: log entry 6); nothing else changes. -/
def Obligations.LinkSamplesAreDebounced : Prop :=
  ∀ (l : Link) (p : Bool) (s : State), s.engine ≠ .starting →
    let x := s.links.get l
    let hist := if 3 < (x.history ++ [p]).length then (x.history ++ [p]).drop 1 else x.history ++ [p]
    (hist ≠ [!x.up, !x.up, !x.up] →
      exec (.linkSample l p) s = .next ({ s with links := s.links.set l { x with history := hist } }.settle)) ∧
    (x.up = false → hist = [true, true, true] →
      exec (.linkSample l p) s =
        .next (({ s with links := s.links.set l { x with up := true, history := hist } }.plainEvent .link (.link l.num)
          [0]).settle)) ∧
    (x.up = true → hist = [false, false, false] →
      ∃ t : State, exec (.linkSample l p) s = .next ((t.plainEvent .link (.link l.num) [1]).settle) ∧
        t = { s with
          links := s.links.set l { x with up := false, history := hist }
          arbiters := s.arbiters.set l
            { s.arb l with
              passCredit := 0, reportCredit := 0, passQueue := [], flowQueue := [], due := none, sending := none }
          windows := t.windows } ∧
        ∀ w,
          let n := (s.arb l).passQueue.countP fun q => decide (q.window = w)
          (n = 0 → t.window w = s.window w) ∧
          (0 < n → t.window w = { s.window w with drops := min ((s.window w).drops + n) 4294967295 }))

/-- FRAME_ARRIVAL (R141, R144, R145, R174): lost on a DOWN link, "bad form" below 8 bytes, "bad check" where the check differs; a
well-formed sample frame is counted good and classified; a good credit frame adds to or sets its link's credit. "Bad form", and no
event: a kind other than 01h to 03h; a sample frame whose zero fields are not zero, whose sample count is not 1 to 64, or whose
length is not what its count gives; a credit frame of another length, class or mode. The check of R144's nine characters. -/
def Obligations.ArrivingFramesAreChecked : Prop :=
  crc32 [0x31, 0x32, 0x33, 0x34, 0x35, 0x36, 0x37, 0x38, 0x39] = 0xCBF43926 ∧
  (∀ (l : Link) (body : List Byte) (s : State), s.engine ≠ .starting → s.linkUp l = true → 4 ≤ body.length →
    let malformed :=
      exec (.frameArrival l (withCheck body)) s =
        .next ((s.count l fun c => { c with badForm := min (c.badForm + 1) 4294967295 }).settle)
    (∀ k rest, body = k :: rest → k ≠ 1 → k ≠ 2 → k ≠ 3 → malformed) ∧
    (∀ rest, body = 1 :: rest → rest.length < 11 → malformed) ∧
    (∀ b s1 s0 q1 q0 p g n z1 z2 z3 samples, body = [1, b, s1, s0, q1, q0, p, g, n, z1, z2, z3] ++ samples →
      b.getLsbD 2 = true ∨ b.getLsbD 3 = true ∨ 16 ≤ s1.toNat ∨ z1 ≠ 0 ∨ z2 ≠ 0 ∨ z3 ≠ 0 ∨ n.toNat = 0 ∨ 64 < n.toNat ∨
        samples.length ≠ 3 * n.toNat → malformed) ∧
    (∀ c m n rest, body = 3 :: c :: m :: n :: rest → rest ≠ [] ∨ (c ≠ 1 ∧ c ≠ 2) ∨ (m ≠ 1 ∧ m ≠ 2) → malformed)) ∧
  ∀ (l : Link) (s : State), s.engine ≠ .starting →
    (∀ bs, s.linkUp l = false → exec (.frameArrival l bs) s = .next s.settle) ∧
    (∀ bs : List Byte, s.linkUp l = true → bs.length < 8 →
      exec (.frameArrival l bs) s =
        .next ((s.count l fun c => { c with badForm := min (c.badForm + 1) 4294967295 }).settle)) ∧
    (∀ body check : List Byte, s.linkUp l = true → 4 ≤ body.length → check.length = 4 → check ≠ bytes4 (crc32 body) →
      exec (.frameArrival l (body ++ check)) s =
        .next ((s.count l fun c => { c with badCheck := min (c.badCheck + 1) 4294967295 }).settle)) ∧
    (∀ fr : SampleFrame, s.linkUp l = true → fr.contentClass < 16 → fr.rateCode < 4 → fr.stream < 4096 →
      fr.sequence < 65536 → fr.program < 256 → fr.language < 256 → 1 ≤ fr.samples.length → fr.samples.length ≤ 64 →
      exec (.frameArrival l (frameBytes (.pass fr))) s =
        .next (((s.count l fun c => { c with good := min (c.good + 1) 4294967295 }).classify l fr).settle)) ∧
    (∀ (mode : Byte) (n : Byte), s.linkUp l = true → mode = 1 ∨ mode = 2 →
      let u := s.count l fun c => { c with good := min (c.good + 1) 4294967295 }
      let new := fun (old : Nat) => if mode = 1 then min (old + n.toNat) 255 else n.toNat
      exec (.frameArrival l (withCheck [3, 1, mode, n])) s =
          .next ((u.setArb l { s.arb l with passCredit := new (s.arb l).passCredit }).settle) ∧
        exec (.frameArrival l (withCheck [3, 2, mode, n])) s =
          .next ((u.setArb l { s.arb l with reportCredit := new (s.arb l).reportCredit }).settle))

/-- A control frame of well-formed commands that arrives on an UP link is counted good and joins the control FIFO as those commands,
commands of an unknown code or a bad operand length among them; at a full FIFO, or with role NONE, it is dropped and counted (R146,
R152, R156). A malformed one is counted "bad form", and raises CONTROL_DROPPED with the lowest reason that holds: 1 for the command
count, 2 for the frame's length, 3 for commands that do not fill the area exactly, 4 for a flag bit. -/
def Obligations.ControlFramesJoinTheFifo : Prop :=
  (∀ (l : Link) (count a1 a0 : Byte) (area : List Byte) (s : State), s.engine ≠ .starting → s.linkUp l = true →
    let drops := fun reason =>
      exec (.frameArrival l (withCheck ([2, count, a1, a0] ++ area))) s =
        .next (((s.count l fun c => { c with badForm := min (c.badForm + 1) 4294967295 }).plainEvent .controlDropped
          (.link l.num) [reason]).settle)
    let counted := 1 ≤ count.toNat ∧ count.toNat ≤ 16
    let sized := area.length + 8 ≤ 2048 ∧ area.length = a1.toNat * 256 + a0.toNat
    let isCommand := fun (p : List Byte) =>
      ∃ code flags t1 t0 m rest, p = code :: flags :: t1 :: t0 :: m :: rest ∧
        rest.length = m.toNat + (if flags.getLsbD 1 then 6 else 0)
    let fills := fun (parts : List (List Byte)) =>
      parts.length = count.toNat ∧ parts.flatten = area ∧ ∀ p ∈ parts, isCommand p
    (¬ counted → drops 1) ∧ (counted → ¬ sized → drops 2) ∧ (counted → sized → (∀ parts, ¬ fills parts) → drops 3) ∧
    (∀ parts p, counted → sized → fills parts → p ∈ parts → 4 ≤ (p.getD 1 0).toNat → drops 4)) ∧
  (∀ (l : Link) (rs : List RawCommand) (s : State), s.engine ≠ .starting → s.linkUp l = true → 1 ≤ rs.length →
    rs.length ≤ 16 →
    (∀ r ∈ rs, r.flags.toNat < 4 ∧ r.flags.getLsbD 1 = r.timed.isSome ∧ (∀ t, r.timed = some t → t < 2 ^ 48) ∧
      r.tag < 65536 ∧ r.ops.length < 256) →
    let area := rs.flatMap fun r =>
      [r.code, r.flags] ++ bytes2 r.tag ++ [BitVec.ofNat 8 r.ops.length] ++
        (match r.timed with | some t => bytes6 t | none => []) ++ r.ops
    area.length ≤ 2040 → s.roles.get l ≠ .none → (s.fifos.get l).length < 4 →
    let u := s.count l fun c => { c with good := min (c.good + 1) 4294967295 }
    exec (.frameArrival l (withCheck ([2, BitVec.ofNat 8 rs.length] ++ bytes2 area.length ++ area))) s =
      .next ({ u with fifos := u.fifos.set l (u.fifos.get l ++ [rs.map fun (r : RawCommand) => r.instr l]) }.settle)) ∧
  ∀ (l : Link) (cs : List Instr) (s : State), s.engine ≠ .starting → s.linkUp l = true → 1 ≤ cs.length → cs.length ≤ 16 →
    (∀ i ∈ cs, ∃ h, i.hdr? = some h ∧ h.link = l ∧ h.lenOk = true ∧ i.wellFormed = true) →
    let area := cs.flatMap fun i => match i.hdr? with | some h => encodeCommand h i | none => []
    area.length ≤ 2040 →
    let bytes := withCheck ([2, BitVec.ofNat 8 cs.length] ++ bytes2 area.length ++ area)
    let u := s.count l fun c => { c with good := min (c.good + 1) 4294967295 }
    let dropped := u.count l fun c => { c with controlDropped := min (c.controlDropped + 1) 4294967295 }
    (s.roles.get l ≠ .none → (s.fifos.get l).length < 4 →
      exec (.frameArrival l bytes) s = .next ({ u with fifos := u.fifos.set l (u.fifos.get l ++ [cs]) }.settle)) ∧
    (s.roles.get l ≠ .none → 4 ≤ (s.fifos.get l).length →
      exec (.frameArrival l bytes) s = .next ((dropped.plainEvent .controlDropped (.link l.num) [5]).settle)) ∧
    (s.roles.get l = .none → exec (.frameArrival l bytes) s = .next dropped.settle)

/-- Every well-formed command of a control frame is read back whole from its bytes (R152, R164). A command read keeps its code,
link, flags, time and tag, is unknown where the command-code table lacks its code, and has a bad length where its operand length is
none of the code's (those of LOAD KERNEL ROWS: log entry 21). The bytes and the length of every frame the device sends: sample, bus,
report and flow frames (R148, R151, R153 to R155). -/
def Obligations.CommandBytesReadBack : Prop :=
  (∀ (r : RawCommand) (l : Link),
    let lengths : List (List Nat × List Nat) :=
      [([0x01, 0x02, 0x03, 0x07, 0x31, 0x43, 0x4C, 0x4D, 0x4E], [0]), ([0x11, 0x12, 0x18, 0x21, 0x26, 0x27, 0x51], [1]),
        ([0x06, 0x14, 0x17, 0x19, 0x23, 0x28, 0x29, 0x30, 0x32, 0x39, 0x3B, 0x40, 0x46, 0x47, 0x50, 0x52], [2]),
        ([0x13, 0x15, 0x16, 0x25, 0x44, 0x45], [3]), ([0x04, 0x3A, 0x4B], [4]), ([0x42, 0x49], [5]), ([0x05, 0x10], [6]),
        ([0x48], [7]), ([0x4A], [8]), ([0x38], [11]), ([0x22], [8, 14]), ([0x24], [2, 3]), ([0x2A], [1, 3]), ([0x41], [12, 18]),
        ([0x20], [51, 99, 147, 195])]
    (isUnknown (r.instr l) = true ↔ ∀ g ∈ lengths, r.code.toNat ∉ g.1) ∧ (r.instr l).code = r.code.toNat ∧
      ∃ h, (r.instr l).hdr? = some h ∧ h.link = l ∧ h.acked = r.flags.getLsbD 0 ∧ h.timed = r.timed ∧ h.tag = r.tag ∧
        (h.lenOk = true ↔ ∀ g ∈ lengths, r.code.toNat ∈ g.1 → r.ops.length ∈ g.2)) ∧
  (let be := fun n x => (List.range n).map fun j => BitVec.ofNat 8 (x / 256 ^ (n - 1 - j))
    let sent := fun (f : EgressFrame) (bytes : List Byte) (n : Nat) =>
      frameBytes f = bytes ++ be 4 (crc32 bytes) ∧ (frameBytes f).length = n
    (∀ f : SampleFrame,
      sent (.pass f)
        (be 1 1 ++ be 1 (f.contentClass * 16 + f.rateCode) ++ be 2 f.stream ++ be 2 f.sequence ++ be 1 f.program ++
          be 1 f.language ++ be 1 f.samples.length ++ be 3 0 ++ f.samples.flatMap fun x => be 3 x.toNat)
        (16 + 3 * f.samples.length)) ∧
    (∀ f : BusFrame, f.rows.length = f.k → (∀ row ∈ f.rows, row.length = f.buses.length) →
      sent (.bus f)
        (be 1 4 ++ be 1 f.link.num ++ be 2 f.sequence ++ be 6 f.t0.toNat ++ be 1 f.k ++ be 1 f.buses.length ++
          f.buses.flatMap (be 1) ++ f.rows.flatten.flatMap fun x => be 3 x.toNat)
        (16 + f.buses.length + 3 * f.k * f.buses.length)) ∧
    (∀ n rs,
      sent (.report n rs)
        (be 1 5 ++ be 1 rs.length ++ be 2 n ++ rs.flatMap fun r =>
          be 1 ((if r.earlierLost then 128 else 0) + (match r.kind with | .reply => 1 | .event => 2)) ++ be 1 r.code ++
            be 2 r.tag ++ be 1 r.status.code ++ be 1 r.subject.kindNum ++ be 2 r.subject.number ++ be 6 r.time.toNat ++
            be 1 r.words.length ++ be 1 0 ++ r.words.flatMap fun w => be 4 w.toNat)
        (8 + 16 * rs.length + 4 * (rs.map fun r => r.words.length).sum)) ∧
    (∀ f : FlowFrame,
      sent (.flow f) (be 1 6 ++ be 1 (if f.pause then 1 else 2) ++ be 2 f.stream ++ be 2 f.fill ++ be 2 f.capacity) 12) ∧
    ∀ n, [Subject.device, .link n, .feed n, .bus n, .route n, .rule n, .cue, .block].map (fun x => (x.kindNum, x.number)) =
      [(0, 0), (1, n), (2, n), (3, n), (4, n), (5, n), (6, 0), (7, 0)]) ∧
  ∀ (i : Instr) (h : Hdr) (rest : List Byte), i.hdr? = some h → h.lenOk = true → i.wellFormed = true →
    ∃ r, readRaw (encodeCommand h i ++ rest) = some (r, rest) ∧ r.flags.toNat < 4 ∧ r.instr h.link = i

/-! ### The sample instant and the egress (files 01 to 03, 10) -/

/-- SAMPLE_INSTANT in RUN (R8, R12, R94): the stages in their order, from where the instant in progress stands (log entry 15) or from
the first, buses, routes and links in ascending number (log entry 9);
house time rises by one and no instant is left in progress; the cues due leave the queue when the instant begins; and no setting,
window, default rule, staging record, block operation, FIFO or role changes. Outside RUN nothing is computed (R4). -/
def Obligations.SampleInstantAdvancesTime : Prop :=
  ∀ s : State,
    (s.engine = .run →
      let due := s.instant = none
      let begun := if due then
          { (s.cues.filter fun (c : Cue) => decide (c.time ≤ s.houseTime)).foldl State.applyCue
              { s with cues := s.cues.filter fun (c : Cue) => !decide (c.time ≤ s.houseTime) } with
            instant := some InstantWork.initial }
        else s
      ∃ t : State, exec .sampleInstant s = .next ({ t with instant := none, houseTime := s.houseTime + 1 }.settle) ∧
        t = ((((begun.settleTo 64).feedsTo 128).routesTo (s.tableSize .route)).mixTo 64).handTo 2 ∧
        t.cues = (if due then s.cues.filter fun (c : Cue) => !decide (c.time ≤ s.houseTime) else s.cues) ∧
        t = { s with
          instant := t.instant, cues := t.cues, buses := t.buses, kernels := t.kernels, feeds := t.feeds, owners := t.owners,
          freeList := t.freeList, memory := t.memory, slots := t.slots, links := t.links, arbiters := t.arbiters,
          reports := t.reports, lostMarker := t.lostMarker }) ∧
    (s.engine ≠ .run → exec .sampleInstant s = .next s.settle)

/-- BUS_SETTLE (R19): where bus `b` comes to its settling point, an ENABLING bus becomes ENABLED with its delay line cleared, and a
DISABLING one DISABLED; everything else is as the work before left it. The row does all the work before bus `b`, which log entry 15
gives, with the buses in ascending number (log entry 9). -/
def Obligations.BusesSettle : Prop :=
  ∀ (b : Nat) (s : State), b < 64 → s.engine = .run →
    let u := s.inInstant.settleTo b
    let through := fun (v : State) => { v with instant := some { u.work with nextBus := b + 1 } }
    u.work.nextBus = b → (∀ l, (u.bus b).link = some l → u.houseTime.toNat % u.framing.get l = 0) →
    ((u.bus b).state = .enabling →
      ∃ t : State, exec (.busSettle b) s = .next (through t).settle ∧ t = { u with buses := t.buses, memory := t.memory } ∧
        t.bus b = { u.bus b with state := .enabled, index := 0 } ∧ (∀ c, c ≠ b → t.bus c = u.bus c) ∧
        ∀ a, t.word a =
          if ∃ q, q < (u.bus b).delay ∧ q / 256 < (u.bus b).pages.length ∧ a = pageAddress (u.bus b).pages q then 0
          else u.word a) ∧
    ((u.bus b).state = .disabling →
      exec (.busSettle b) s = .next (through (u.setBus b { u.bus b with state := .disabled })).settle)

/-- FEED_START, SERVO_RUN and DRAIN_END (R50, R51, R43, R55): where the event comes about in feed `f`'s step, that one step is
carried out, after all the work before that feed (the rows' place in the instant is log entry 15). -/
def Obligations.FeedEventsRunTheStep : Prop :=
  ∀ (f : Nat) (s : State), f < 128 → s.engine = .run →
    let u := s.inInstant.feedsTo f
    let v := u.feedStep f
    let done := fun i => exec i s = .next ({ v with instant := some { v.work with nextFeed := f + 1 } }.settle)
    u.work.nextFeed = f →
    ((u.feed f).state ≠ .running → ((u.startEval f).feed f).state = .running → done (.feedStart f)) ∧
    (((u.startEval f).feed f).state = .running → u.houseTime.toNat % 256 = 0 → done (.servoRun f)) ∧
    ((u.feed f).state = .draining → (u.feed f).fill < (u.feed f).carry → done (.drainEnd f))

/-- One step of a feed (R36, R37, R43, R50 to R52). A CLOSED feed does nothing. A PRIMING feed at its target with its start time
come, or a STARVED one at its target, becomes RUNNING with a STATE event, after START_LATE where the start time is past; one that
does not start does nothing. A RUNNING feed runs its servo at a multiple of 256, and converts; a DRAINING one converts. That
START_LATE comes before STATE is log entry 19. -/
def Obligations.FeedStepsInOrder : Prop :=
  ∀ (n : Nat) (s : State),
    let x := s.feed n
    let now := s.houseTime
    let runs := fun (v : State) =>
      let w := if now.toNat % 256 = 0 then v.setFeed n (v.feed n).servo else v
      w.convertFeed n
    let started := fun (v : State) => v.stickyEvent n .stateRunning .state [2, wordNat x.fill]
    (x.state = .closed → s.feedStep n = s) ∧
    (x.state = .draining → s.feedStep n = s.convertFeed n) ∧
    (x.state = .running → s.feedStep n = runs s) ∧
    (x.state = .priming ∨ x.state = .starved → x.fill < x.target → s.feedStep n = s) ∧
    (x.state = .starved ∨ (x.state = .priming ∧ x.start = none) → x.target ≤ x.fill →
      s.feedStep n = runs (started (s.setFeed n { x with state := .running }))) ∧
    ∀ t, x.state = .priming → x.start = some t → x.target ≤ x.fill →
      (now < t → s.feedStep n = s) ∧
      (t = now → s.feedStep n = runs (started (s.setFeed n { x with state := .running, start := none }))) ∧
      (t < now →
        s.feedStep n =
          runs (started ((s.setFeed n { x with state := .running, start := none }).plainEvent .startLate (.feed n)
            (words48 (now - t)))))

/-- The conversion of one instant (R38 to R42, R52, R55): the position moves by the step; the carry's samples are consumed, with the
consumption flow check, and zeros stand for those missing; the output is formed, with FEED_CLIP on a clipped instant; and a
RUNNING feed that ran short is STARVED, with UNDERRUN and STATE, while a DRAINING one closes, with STATE. That FEED_CLIP comes before
UNDERRUN and UNDERRUN before STATE is log entry 19. -/
def Obligations.ConversionConsumesAndFilters : Prop :=
  ∀ (n : Nat) (s : State),
    let x := s.feed n
    let sum := (x.position : Int) + x.step
    let k := (sum / 16777216).toNat
    let real := min k x.fill
    let u := (s.setFeed n { x with position := (sum % 16777216).toNat }).consumeSamples n real
    let v := (if real = 0 then u else u.consumptionFlow n).pushZeros n (k - real)
    let y := filterOutput (v.kernel (v.feed n).kernel) (v.feed n).position (v.feed n).history
    let clips := y < -8388608 ∨ 8388607 < y
    let w := if clips then
        (v.setFeed n { v.feed n with clipCount := min ((v.feed n).clipCount + 1) 65535 }).stickyEvent n .feedClip .feedClip
          [BitVec.ofInt 32 y]
      else v
    let out := w.putOutput n (BitVec.ofInt 24 (max (-8388608) (min y 8388607)))
    (k ≤ x.fill → s.convertFeed n = out) ∧
    (x.fill < k → x.state = .running →
      s.convertFeed n =
        ((out.setFeed n { out.feed n with
            state := .starved, history := List.replicate 16 0
            underrunCount := min ((out.feed n).underrunCount + 1) 65535 }).stickyEvent n .underrun .underrun
          [wordNat (k - x.fill)]).stickyEvent n .stateStarved .state [3, wordNat (out.feed n).fill]) ∧
    (x.fill < k → x.state = .draining →
      s.convertFeed n = (out.closeFeed n).stickyEvent n .stateClosed .state [0, 0])

/-- The fourth stage of a route (R16): its product with floor(current / 65,536), negated when INVERTED, joins its bus's sum; then its
ramp advances: remaining 0 leaves the route as it is, remaining above 1 adds the step and counts down, and remaining 1 sets the
current gain exactly to the target and the step to 0. An EMPTY slot does nothing. RAMP_END is that last instant, after all the work
before route `i` (the row: log entry 15; the routes in ascending index: log entry 9); nothing else changes. -/
def Obligations.RampsEndAtTheTarget : Prop :=
  (∀ (i : Nat) (w : InstantWork) (s : State), s.instant = some w →
    (s.routeAt i = none → s.routeStep i = s) ∧
    ∀ r, s.routeAt i = some r →
      let gain : Int := (r.current / 65536 : Nat)
      let y := (cellGet 0 w.outputs r.feed).toInt
      let p := match r.polarity with | .normal => y * gain | .inverted => -(y * gain)
      let advanced := fun q =>
        { s with instant := some { w with sums := cellSet 0 w.sums r.bus (cellGet 0 w.sums r.bus + p) } }.setEntry .route i
          (.route q)
      (r.remaining = 0 → s.routeStep i = advanced r) ∧
      (r.remaining = 1 → s.routeStep i = advanced { r with current := r.target * 65536, remaining := 0, step := 0 }) ∧
      (∀ c : Nat, 2 ≤ r.remaining → (c : Int) = r.current + r.step →
        s.routeStep i = advanced { r with current := c, remaining := r.remaining - 1 })) ∧
  ∀ (i : Nat) (r : Route) (s : State), s.engine = .run →
    let u := s.inInstant.routesTo i
    u.work.nextRoute = i → i < u.tableSize .route → u.routeAt i = some r → r.remaining = 1 →
    let gain : Int := (r.current / 65536 : Nat)
    let y := (cellGet 0 u.work.outputs r.feed).toInt
    let p := match r.polarity with | .normal => y * gain | .inverted => -(y * gain)
    exec (.rampEnd i) s =
      .next (({ u with
          instant := some
            { u.work with
              sums := cellSet 0 u.work.sums r.bus (cellGet 0 u.work.sums r.bus + p)
              nextRoute := i + 1 } }.setEntry .route i
        (.route { r with current := r.target * 65536, remaining := 0, step := 0 })).settle)

/-- A bus in the mix at the fifth stage (R24 to R26, R81): the sum, the mode and the trim give the value before saturation; a clipped
instant raises CLIP under its flag and counts; the value goes through the delay line; and a muted bus puts out 0. A bus that is
not in the mix does nothing. -/
def Obligations.BusesMix : Prop :=
  ∀ (b : Nat) (w : InstantWork) (s : State), s.instant = some w →
    let x := s.bus b
    let r2 := x.mixed (cellGet 0 w.sums b) (cellGet 0 w.outputs x.soloFeed).toInt
    let v := BitVec.ofInt 24 (max (-8388608) (min r2 8388607))
    let clips := r2 < -8388608 ∨ 8388607 < r2
    let flagged := if x.clipFlag then s else s.plainEvent .clip (.bus b) [BitVec.ofInt 32 (max (-2147483648) (min r2 2147483647))]
    let u := if clips then flagged.setBus b { x with clipCount := min (x.clipCount + 1) 65535, clipFlag := true } else s
    let cell := pageAddress x.pages x.index
    let finish := fun (t : State) (y : Sample) => { t with instant := some { w with finished := w.finished ++ [(b, if x.mute then 0 else y)] } }
    (x.state = .disabled ∨ x.state = .enabling → s.mixBus b = s) ∧
    (x.state = .enabled ∨ x.state = .disabling → x.delay = 0 → s.mixBus b = finish u v) ∧
    (x.state = .enabled ∨ x.state = .disabling → x.delay ≠ 0 →
      s.mixBus b =
        finish ((u.setWord cell v).setBus b { u.bus b with index := (x.index + 1) % x.delay }) (s.word cell))

/-- The sixth stage of a link (R176): at a multiple of K an assembly begins, with the buses in the mix on this link; until K instants
are there it holds one row more; an empty list makes no frame. BUS_FRAME_COMPLETE: after K instants the assembly is gone and the
sequence rises by one; on an UP link the frame is due with its number, and on a DOWN link it is discarded; nothing else changes. The
row does all the work before link `l` (log entry 15), the links in ascending number (log entry 9). -/
def Obligations.BusFramesComplete : Prop :=
  (∀ (l : Link) (finished : List (Nat × Sample)) (s : State),
    let a := s.arb l
    let k := s.framing.get l
    let list := (List.range 64).filter fun b =>
      decide (((s.bus b).state = .enabled ∨ (s.bus b).state = .disabling) ∧ (s.bus b).link = some l)
    (s.houseTime.toNat % k = 0 → 1 < k →
      s.handLink l finished =
        s.setArb l { a with assembly := some { t0 := s.houseTime, buses := list, rows := [list.map (cellGet 0 finished)] } }) ∧
    (k = 1 → list = [] → s.handLink l finished = s.setArb l { a with assembly := none }) ∧
    (s.houseTime.toNat % k ≠ 0 → a.assembly = none → s.handLink l finished = s) ∧
    ∀ asm, s.houseTime.toNat % k ≠ 0 → a.assembly = some asm →
      (asm.rows.length + 1 ≠ k →
        s.handLink l finished =
          s.setArb l
            { a with assembly := some { asm with rows := asm.rows ++ [asm.buses.map (cellGet 0 finished)] } }) ∧
      (asm.rows.length + 1 = k → asm.buses = [] → s.handLink l finished = s.setArb l { a with assembly := none })) ∧
  ∀ (l : Link) (asm : Assembly) (s : State), s.engine = .run →
    let u := s.inInstant.handTo l.num
    let a := u.arb l
    let rows := asm.rows ++ [asm.buses.map (cellGet 0 u.work.finished)]
    u.work.nextLink = l.num → u.begunAssembly l = some asm → asm.buses ≠ [] → asm.rows.length + 1 = u.framing.get l →
    exec (.busFrameComplete l) s =
      .next (({ u with instant := some { u.work with nextLink := l.num + 1 } }.setArb l
        { a with
          assembly := none
          busSequence := (a.busSequence + 1) % 65536
          due :=
            if u.linkUp l then
              some { link := l, sequence := a.busSequence, t0 := asm.t0, k := u.framing.get l, buses := asm.buses, rows := rows }
            else a.due }).settle)

/-- FRAME_SENT (R172 to R175, R178): the egress is free, and link 0 and then link 1 choose their next frame, as every step ends
(`settle`; log entry 5). A DOWN link, or one that is sending, chooses none; an idle UP one forms the first of the ready classes BUS,
FLOW, REPORT and PASS, and none if none is ready. -/
def Obligations.EgressChoosesInOrder : Prop :=
  (∀ (l : Link) (s : State),
    s.settle = (s.choose .l0).choose .l1 ∧
      exec (.frameSent l) s =
        .next (((s.setArb l { s.arb l with sending := none }).choose .l0).choose .l1)) ∧
  ∀ (l : Link) (s : State),
    let a := s.arb l
    (s.linkUp l = false ∨ a.sending ≠ none → s.choose l = s) ∧
    (s.linkUp l = true → a.sending = none →
      (∀ f, a.due = some f → s.choose l = s.setArb l { a with due := none, sending := some (.bus f) }) ∧
      (∀ f q, a.due = none → a.flowQueue = f :: q →
        s.choose l = s.setArb l { a with flowQueue := q, sending := some (.flow f) }) ∧
      (a.due = none → a.flowQueue = [] → s.reportLink = l → 1 ≤ a.reportCredit → s.reports ≠ [] →
        s.choose l =
          { s with reports := s.reports.drop 8, reportSequence := (s.reportSequence + 1) % 65536 }.setArb l
            { a with
              reportCredit := a.reportCredit - 1, sending := some (.report s.reportSequence (s.reports.take 8)) }) ∧
      (∀ p q, a.due = none → a.flowQueue = [] → s.reportLink ≠ l ∨ a.reportCredit = 0 ∨ s.reports = [] →
        a.passQueue = p :: q → 1 ≤ a.passCredit →
        s.choose l =
          s.setArb l { a with passQueue := q, passCredit := a.passCredit - 1, sending := some (.pass p.frame) }) ∧
      (a.due = none → a.flowQueue = [] → s.reportLink ≠ l ∨ a.reportCredit = 0 ∨ s.reports = [] →
        a.passQueue = [] ∨ a.passCredit = 0 → s.choose l = s))

/-! ### Invariants that every step keeps -/

/-- Every invariant below holds right after reset. -/
def Obligations.InvariantsHoldAtReset : Prop :=
  State.reset.Canonical ∧ State.reset.ReportsBounded ∧ (∀ l, State.reset.LinkBounded l) ∧ State.reset.CuesOrdered ∧
    (∀ n, (State.reset.feed n).StepBounded) ∧ State.reset.FeedsBounded ∧ State.reset.PoolAgrees ∧ State.reset.KernelsCounted ∧
    State.reset.TablesWhole

/-- The numbered stores, sample memory among them, keep their canonical form. -/
def Obligations.StepsKeepStoresCanonical : Prop :=
  ∀ s t : State, s.Canonical → step s = .next t → t.Canonical

/-- The report queue holds at most 64 entries, a held place counted, and a place is held exactly for an acknowledged block
operation (R168, R169); control FIFOs, flow queues, pass-through queues and credits keep their bounds (R156, R174, R177,
R178). -/
def Obligations.StepsKeepQueuesBounded : Prop :=
  (∀ s t : State, s.ReportsBounded → step s = .next t → t.ReportsBounded) ∧
    ∀ s t : State, (∀ l, s.LinkBounded l) → step s = .next t → ∀ l, t.LinkBounded l

/-- The cue queue holds at most 256 cues in nondecreasing order of activation time, and none outside RUN (R91, R100). -/
def Obligations.StepsKeepCuesOrdered : Prop :=
  ∀ s t : State, s.CuesOrdered → step s = .next t → t.CuesOrdered

/-- Every feed's position fraction lies in 0 to 2^24 − 1 and its step within N ± floor(N / 1,024) (R43); every fill lies within its
capacity, the indices agree with it, and a CLOSED feed holds no pages and has fill 0 (R46). -/
def Obligations.StepsKeepFeedsBounded : Prop :=
  (∀ s t : State, (∀ n, (s.feed n).StepBounded) → step s = .next t → ∀ n, (t.feed n).StepBounded) ∧
    ∀ s t : State, s.FeedsBounded → step s = .next t → t.FeedsBounded

/-- The owner records, the free list and the holders' page lists always agree, and the pages number 512 (R79). -/
def Obligations.StepsKeepPoolAgreed : Prop :=
  ∀ s t : State, s.FeedsBounded → s.PoolAgrees → step s = .next t → t.PoolAgrees

/-- Every in-use count is the number of open feeds that name its set, and every open feed names a READY set (R32). -/
def Obligations.StepsKeepKernelsCounted : Prop :=
  ∀ s t : State, s.FeedsBounded → s.KernelsCounted → step s = .next t → t.KernelsCounted

/-- A wide rule always occupies an even index and the continuation above it, a continuation never stands without its rule, and no
two ACTIVE routes carry the same feed and bus (R124, R125), whatever the block operation does (R118, R130 to R133). -/
def Obligations.StepsKeepTablesWhole : Prop :=
  ∀ s t : State, s.TablesWhole → step s = .next t → t.TablesWhole
end

