-- ==== Sys2Proof/Laws/Cells.lean ====
section
/-! SUPPORT. Laws of records kept by number: reading after writing, and the canonical form. -/

namespace Sys2Proof.Machine

variable {α : Type}

@[simp] theorem cellGet_nil (d : α) (i : Nat) : cellGet d [] i = d := rfl

theorem cellGet_cellPlace_same (d : α) (i : Nat) (v : α) :
    ∀ m : List (Nat × α), (∀ p ∈ m, p.1 ≠ i) → cellGet d (cellPlace i v m) i = v
  | [], _ => by simp [cellPlace, cellGet]
  | (k, w) :: m, h => by
    have hk : k ≠ i := h (k, w) (by simp)
    have := cellGet_cellPlace_same d i v m fun p hp => h p (by simp [hp])
    unfold cellPlace
    split <;> simp [cellGet, hk, this]

theorem cellGet_cellPlace_other (d : α) {i j : Nat} (v : α) (hij : i ≠ j) :
    ∀ m : List (Nat × α), cellGet d (cellPlace i v m) j = cellGet d m j
  | [] => by simp [cellPlace, cellGet, hij]
  | (k, w) :: m => by
    have := cellGet_cellPlace_other d v hij m
    unfold cellPlace
    split <;> simp [cellGet, hij, this]

theorem cellGet_cellDrop_same (d : α) (i : Nat) : ∀ m : List (Nat × α), cellGet d (cellDrop m i) i = d
  | [] => rfl
  | (k, w) :: m => by
    have := cellGet_cellDrop_same d i m
    by_cases h : k = i <;> simp_all [cellDrop, cellGet]

theorem cellGet_cellDrop_other (d : α) {i j : Nat} (hij : i ≠ j) :
    ∀ m : List (Nat × α), cellGet d (cellDrop m i) j = cellGet d m j
  | [] => rfl
  | (k, w) :: m => by
    have := cellGet_cellDrop_other d hij m
    by_cases h : k = i
    · have : k ≠ j := h ▸ hij
      simp_all [cellDrop, cellGet]
    · by_cases h' : k = j <;> simp_all [cellDrop, cellGet]

theorem cellDrop_keys {m : List (Nat × α)} {i : Nat} : ∀ p ∈ cellDrop m i, p.1 ≠ i := by
  intro p hp
  simp [cellDrop] at hp
  exact hp.2

variable [DecidableEq α]

@[simp] theorem cellGet_cellSet_same (d : α) (m : List (Nat × α)) (i : Nat) (v : α) : cellGet d (cellSet d m i v) i = v := by
  unfold cellSet
  split
  · rename_i h; rw [h, cellGet_cellDrop_same]
  · exact cellGet_cellPlace_same d i v _ cellDrop_keys

theorem cellGet_cellSet_other (d : α) (m : List (Nat × α)) {i j : Nat} (v : α) (h : i ≠ j) :
    cellGet d (cellSet d m i v) j = cellGet d m j := by
  unfold cellSet
  split
  · exact cellGet_cellDrop_other d h m
  · rw [cellGet_cellPlace_other d v h, cellGet_cellDrop_other d h]

/-- Reading after writing, in one equation. -/
theorem cellGet_cellSet (d : α) (m : List (Nat × α)) (i j : Nat) (v : α) :
    cellGet d (cellSet d m i v) j = if i = j then v else cellGet d m j := by
  split
  · rename_i h; rw [← h]; simp
  · rename_i h; exact cellGet_cellSet_other d m v h

/-! ### The canonical form -/

omit [DecidableEq α] in
theorem Cells.wf_filter {d : α} {m : List (Nat × α)} (p : Nat × α → Bool) (h : Cells.wf d m) : Cells.wf d (m.filter p) :=
  ⟨h.1.filter _, fun q hq => h.2 q (List.mem_filter.1 hq).1⟩

omit [DecidableEq α] in
theorem Cells.wf_nil (d : α) : Cells.wf d [] := ⟨List.Pairwise.nil, by simp⟩

omit [DecidableEq α] in
theorem cellPlace_mem {i : Nat} {v : α} : ∀ {m : List (Nat × α)} {p}, p ∈ cellPlace i v m → p = (i, v) ∨ p ∈ m
  | [], p, h => by simpa [cellPlace] using h
  | (k, w) :: m, p, h => by
    unfold cellPlace at h
    split at h
    · simpa using h
    · rcases List.mem_cons.1 h with rfl | h
      · simp
      · rcases cellPlace_mem h with rfl | h <;> simp [*]

omit [DecidableEq α] in
theorem cellPlace_rising {i : Nat} {v : α} :
    ∀ {m : List (Nat × α)}, m.Pairwise (fun p q => p.1 < q.1) → (∀ p ∈ m, p.1 ≠ i) →
      (cellPlace i v m).Pairwise (fun p q => p.1 < q.1)
  | [], _, _ => by simp [cellPlace]
  | (k, w) :: m, hm, hi => by
    have hk : k ≠ i := hi (k, w) (by simp)
    have hm' := List.pairwise_cons.1 hm
    unfold cellPlace
    split
    · rename_i hlt
      refine List.pairwise_cons.2 ⟨?_, hm⟩
      intro q hq
      rcases List.mem_cons.1 hq with rfl | hq
      · exact hlt
      · exact Nat.lt_trans hlt (hm'.1 q hq)
    · rename_i hge
      refine List.pairwise_cons.2 ⟨?_, cellPlace_rising hm'.2 fun p hp => hi p (by simp [hp])⟩
      intro q hq
      rcases cellPlace_mem hq with rfl | hq
      · have : k ≤ i := Nat.le_of_not_lt hge
        show k < i
        omega
      · exact hm'.1 q hq

/-- A write keeps the canonical form. -/
theorem Cells.wf_cellSet {d : α} {m : List (Nat × α)} (i : Nat) (v : α) (h : Cells.wf d m) : Cells.wf d (cellSet d m i v) := by
  unfold cellSet
  split
  · exact Cells.wf_filter _ h
  · rename_i hv
    have hd : Cells.wf d (cellDrop m i) := Cells.wf_filter _ h
    refine ⟨cellPlace_rising hd.1 cellDrop_keys, ?_⟩
    intro p hp
    rcases cellPlace_mem hp with rfl | hp
    · exact hv
    · exact hd.2 p hp

end Sys2Proof.Machine
end

