-- ==== Sys2Proof/Laws/State.lean ====
section
/-! SUPPORT. One lemma per field per update: what each named update of State leaves, and what it writes. -/

namespace Sys2Proof.Machine

/-! ### setBus -/

@[simp] theorem setBus_rstnLow (s : State) (b : Nat) (x : Bus) : (s.setBus b x).rstnLow = s.rstnLow := rfl
@[simp] theorem setBus_engine (s : State) (b : Nat) (x : Bus) : (s.setBus b x).engine = s.engine := rfl
@[simp] theorem setBus_cause (s : State) (b : Nat) (x : Bus) : (s.setBus b x).cause = s.cause := rfl
@[simp] theorem setBus_houseTime (s : State) (b : Nat) (x : Bus) : (s.setBus b x).houseTime = s.houseTime := rfl
@[simp] theorem setBus_houseRate (s : State) (b : Nat) (x : Bus) : (s.setBus b x).houseRate = s.houseRate := rfl
@[simp] theorem setBus_framing (s : State) (b : Nat) (x : Bus) : (s.setBus b x).framing = s.framing := rfl
@[simp] theorem setBus_instant (s : State) (b : Nat) (x : Bus) : (s.setBus b x).instant = s.instant := rfl
@[simp] theorem setBus_kernels (s : State) (b : Nat) (x : Bus) : (s.setBus b x).kernels = s.kernels := rfl
@[simp] theorem setBus_feeds (s : State) (b : Nat) (x : Bus) : (s.setBus b x).feeds = s.feeds := rfl
@[simp] theorem setBus_owners (s : State) (b : Nat) (x : Bus) : (s.setBus b x).owners = s.owners := rfl
@[simp] theorem setBus_freeList (s : State) (b : Nat) (x : Bus) : (s.setBus b x).freeList = s.freeList := rfl
@[simp] theorem setBus_memory (s : State) (b : Nat) (x : Bus) : (s.setBus b x).memory = s.memory := rfl
@[simp] theorem setBus_cues (s : State) (b : Nat) (x : Bus) : (s.setBus b x).cues = s.cues := rfl
@[simp] theorem setBus_lateTolerance (s : State) (b : Nat) (x : Bus) : (s.setBus b x).lateTolerance = s.lateTolerance := rfl
@[simp] theorem setBus_windows (s : State) (b : Nat) (x : Bus) : (s.setBus b x).windows = s.windows := rfl
@[simp] theorem setBus_defaults (s : State) (b : Nat) (x : Bus) : (s.setBus b x).defaults = s.defaults := rfl
@[simp] theorem setBus_admissionBanks (s : State) (b : Nat) (x : Bus) : (s.setBus b x).admissionBanks = s.admissionBanks := rfl
@[simp] theorem setBus_routeBanks (s : State) (b : Nat) (x : Bus) : (s.setBus b x).routeBanks = s.routeBanks := rfl
@[simp] theorem setBus_slots (s : State) (b : Nat) (x : Bus) : (s.setBus b x).slots = s.slots := rfl
@[simp] theorem setBus_staging (s : State) (b : Nat) (x : Bus) : (s.setBus b x).staging = s.staging := rfl
@[simp] theorem setBus_block (s : State) (b : Nat) (x : Bus) : (s.setBus b x).block = s.block := rfl
@[simp] theorem setBus_links (s : State) (b : Nat) (x : Bus) : (s.setBus b x).links = s.links := rfl
@[simp] theorem setBus_fifos (s : State) (b : Nat) (x : Bus) : (s.setBus b x).fifos = s.fifos := rfl
@[simp] theorem setBus_roles (s : State) (b : Nat) (x : Bus) : (s.setBus b x).roles = s.roles := rfl
@[simp] theorem setBus_reports (s : State) (b : Nat) (x : Bus) : (s.setBus b x).reports = s.reports := rfl
@[simp] theorem setBus_heldPlace (s : State) (b : Nat) (x : Bus) : (s.setBus b x).heldPlace = s.heldPlace := rfl
@[simp] theorem setBus_lostMarker (s : State) (b : Nat) (x : Bus) : (s.setBus b x).lostMarker = s.lostMarker := rfl
@[simp] theorem setBus_reportLink (s : State) (b : Nat) (x : Bus) : (s.setBus b x).reportLink = s.reportLink := rfl
@[simp] theorem setBus_reportSequence (s : State) (b : Nat) (x : Bus) : (s.setBus b x).reportSequence = s.reportSequence := rfl
@[simp] theorem setBus_arbiters (s : State) (b : Nat) (x : Bus) : (s.setBus b x).arbiters = s.arbiters := rfl
@[simp] theorem setBus_pending (s : State) (b : Nat) (x : Bus) : (s.setBus b x).pending = s.pending := rfl

/-! ### setKernel -/

@[simp] theorem setKernel_rstnLow (s : State) (k : Nat) (x : KernelSet) : (s.setKernel k x).rstnLow = s.rstnLow := rfl
@[simp] theorem setKernel_engine (s : State) (k : Nat) (x : KernelSet) : (s.setKernel k x).engine = s.engine := rfl
@[simp] theorem setKernel_cause (s : State) (k : Nat) (x : KernelSet) : (s.setKernel k x).cause = s.cause := rfl
@[simp] theorem setKernel_houseTime (s : State) (k : Nat) (x : KernelSet) : (s.setKernel k x).houseTime = s.houseTime := rfl
@[simp] theorem setKernel_houseRate (s : State) (k : Nat) (x : KernelSet) : (s.setKernel k x).houseRate = s.houseRate := rfl
@[simp] theorem setKernel_framing (s : State) (k : Nat) (x : KernelSet) : (s.setKernel k x).framing = s.framing := rfl
@[simp] theorem setKernel_instant (s : State) (k : Nat) (x : KernelSet) : (s.setKernel k x).instant = s.instant := rfl
@[simp] theorem setKernel_buses (s : State) (k : Nat) (x : KernelSet) : (s.setKernel k x).buses = s.buses := rfl
@[simp] theorem setKernel_feeds (s : State) (k : Nat) (x : KernelSet) : (s.setKernel k x).feeds = s.feeds := rfl
@[simp] theorem setKernel_owners (s : State) (k : Nat) (x : KernelSet) : (s.setKernel k x).owners = s.owners := rfl
@[simp] theorem setKernel_freeList (s : State) (k : Nat) (x : KernelSet) : (s.setKernel k x).freeList = s.freeList := rfl
@[simp] theorem setKernel_memory (s : State) (k : Nat) (x : KernelSet) : (s.setKernel k x).memory = s.memory := rfl
@[simp] theorem setKernel_cues (s : State) (k : Nat) (x : KernelSet) : (s.setKernel k x).cues = s.cues := rfl
@[simp] theorem setKernel_lateTolerance (s : State) (k : Nat) (x : KernelSet) : (s.setKernel k x).lateTolerance = s.lateTolerance := rfl
@[simp] theorem setKernel_windows (s : State) (k : Nat) (x : KernelSet) : (s.setKernel k x).windows = s.windows := rfl
@[simp] theorem setKernel_defaults (s : State) (k : Nat) (x : KernelSet) : (s.setKernel k x).defaults = s.defaults := rfl
@[simp] theorem setKernel_admissionBanks (s : State) (k : Nat) (x : KernelSet) : (s.setKernel k x).admissionBanks = s.admissionBanks := rfl
@[simp] theorem setKernel_routeBanks (s : State) (k : Nat) (x : KernelSet) : (s.setKernel k x).routeBanks = s.routeBanks := rfl
@[simp] theorem setKernel_slots (s : State) (k : Nat) (x : KernelSet) : (s.setKernel k x).slots = s.slots := rfl
@[simp] theorem setKernel_staging (s : State) (k : Nat) (x : KernelSet) : (s.setKernel k x).staging = s.staging := rfl
@[simp] theorem setKernel_block (s : State) (k : Nat) (x : KernelSet) : (s.setKernel k x).block = s.block := rfl
@[simp] theorem setKernel_links (s : State) (k : Nat) (x : KernelSet) : (s.setKernel k x).links = s.links := rfl
@[simp] theorem setKernel_fifos (s : State) (k : Nat) (x : KernelSet) : (s.setKernel k x).fifos = s.fifos := rfl
@[simp] theorem setKernel_roles (s : State) (k : Nat) (x : KernelSet) : (s.setKernel k x).roles = s.roles := rfl
@[simp] theorem setKernel_reports (s : State) (k : Nat) (x : KernelSet) : (s.setKernel k x).reports = s.reports := rfl
@[simp] theorem setKernel_heldPlace (s : State) (k : Nat) (x : KernelSet) : (s.setKernel k x).heldPlace = s.heldPlace := rfl
@[simp] theorem setKernel_lostMarker (s : State) (k : Nat) (x : KernelSet) : (s.setKernel k x).lostMarker = s.lostMarker := rfl
@[simp] theorem setKernel_reportLink (s : State) (k : Nat) (x : KernelSet) : (s.setKernel k x).reportLink = s.reportLink := rfl
@[simp] theorem setKernel_reportSequence (s : State) (k : Nat) (x : KernelSet) : (s.setKernel k x).reportSequence = s.reportSequence := rfl
@[simp] theorem setKernel_arbiters (s : State) (k : Nat) (x : KernelSet) : (s.setKernel k x).arbiters = s.arbiters := rfl
@[simp] theorem setKernel_pending (s : State) (k : Nat) (x : KernelSet) : (s.setKernel k x).pending = s.pending := rfl

/-! ### setFeed -/

@[simp] theorem setFeed_rstnLow (s : State) (f : Nat) (x : Feed) : (s.setFeed f x).rstnLow = s.rstnLow := rfl
@[simp] theorem setFeed_engine (s : State) (f : Nat) (x : Feed) : (s.setFeed f x).engine = s.engine := rfl
@[simp] theorem setFeed_cause (s : State) (f : Nat) (x : Feed) : (s.setFeed f x).cause = s.cause := rfl
@[simp] theorem setFeed_houseTime (s : State) (f : Nat) (x : Feed) : (s.setFeed f x).houseTime = s.houseTime := rfl
@[simp] theorem setFeed_houseRate (s : State) (f : Nat) (x : Feed) : (s.setFeed f x).houseRate = s.houseRate := rfl
@[simp] theorem setFeed_framing (s : State) (f : Nat) (x : Feed) : (s.setFeed f x).framing = s.framing := rfl
@[simp] theorem setFeed_instant (s : State) (f : Nat) (x : Feed) : (s.setFeed f x).instant = s.instant := rfl
@[simp] theorem setFeed_buses (s : State) (f : Nat) (x : Feed) : (s.setFeed f x).buses = s.buses := rfl
@[simp] theorem setFeed_kernels (s : State) (f : Nat) (x : Feed) : (s.setFeed f x).kernels = s.kernels := rfl
@[simp] theorem setFeed_owners (s : State) (f : Nat) (x : Feed) : (s.setFeed f x).owners = s.owners := rfl
@[simp] theorem setFeed_freeList (s : State) (f : Nat) (x : Feed) : (s.setFeed f x).freeList = s.freeList := rfl
@[simp] theorem setFeed_memory (s : State) (f : Nat) (x : Feed) : (s.setFeed f x).memory = s.memory := rfl
@[simp] theorem setFeed_cues (s : State) (f : Nat) (x : Feed) : (s.setFeed f x).cues = s.cues := rfl
@[simp] theorem setFeed_lateTolerance (s : State) (f : Nat) (x : Feed) : (s.setFeed f x).lateTolerance = s.lateTolerance := rfl
@[simp] theorem setFeed_windows (s : State) (f : Nat) (x : Feed) : (s.setFeed f x).windows = s.windows := rfl
@[simp] theorem setFeed_defaults (s : State) (f : Nat) (x : Feed) : (s.setFeed f x).defaults = s.defaults := rfl
@[simp] theorem setFeed_admissionBanks (s : State) (f : Nat) (x : Feed) : (s.setFeed f x).admissionBanks = s.admissionBanks := rfl
@[simp] theorem setFeed_routeBanks (s : State) (f : Nat) (x : Feed) : (s.setFeed f x).routeBanks = s.routeBanks := rfl
@[simp] theorem setFeed_slots (s : State) (f : Nat) (x : Feed) : (s.setFeed f x).slots = s.slots := rfl
@[simp] theorem setFeed_staging (s : State) (f : Nat) (x : Feed) : (s.setFeed f x).staging = s.staging := rfl
@[simp] theorem setFeed_block (s : State) (f : Nat) (x : Feed) : (s.setFeed f x).block = s.block := rfl
@[simp] theorem setFeed_links (s : State) (f : Nat) (x : Feed) : (s.setFeed f x).links = s.links := rfl
@[simp] theorem setFeed_fifos (s : State) (f : Nat) (x : Feed) : (s.setFeed f x).fifos = s.fifos := rfl
@[simp] theorem setFeed_roles (s : State) (f : Nat) (x : Feed) : (s.setFeed f x).roles = s.roles := rfl
@[simp] theorem setFeed_reports (s : State) (f : Nat) (x : Feed) : (s.setFeed f x).reports = s.reports := rfl
@[simp] theorem setFeed_heldPlace (s : State) (f : Nat) (x : Feed) : (s.setFeed f x).heldPlace = s.heldPlace := rfl
@[simp] theorem setFeed_lostMarker (s : State) (f : Nat) (x : Feed) : (s.setFeed f x).lostMarker = s.lostMarker := rfl
@[simp] theorem setFeed_reportLink (s : State) (f : Nat) (x : Feed) : (s.setFeed f x).reportLink = s.reportLink := rfl
@[simp] theorem setFeed_reportSequence (s : State) (f : Nat) (x : Feed) : (s.setFeed f x).reportSequence = s.reportSequence := rfl
@[simp] theorem setFeed_arbiters (s : State) (f : Nat) (x : Feed) : (s.setFeed f x).arbiters = s.arbiters := rfl
@[simp] theorem setFeed_pending (s : State) (f : Nat) (x : Feed) : (s.setFeed f x).pending = s.pending := rfl

/-! ### setOwner -/

@[simp] theorem setOwner_rstnLow (s : State) (p : Nat) (x : Owner) : (s.setOwner p x).rstnLow = s.rstnLow := rfl
@[simp] theorem setOwner_engine (s : State) (p : Nat) (x : Owner) : (s.setOwner p x).engine = s.engine := rfl
@[simp] theorem setOwner_cause (s : State) (p : Nat) (x : Owner) : (s.setOwner p x).cause = s.cause := rfl
@[simp] theorem setOwner_houseTime (s : State) (p : Nat) (x : Owner) : (s.setOwner p x).houseTime = s.houseTime := rfl
@[simp] theorem setOwner_houseRate (s : State) (p : Nat) (x : Owner) : (s.setOwner p x).houseRate = s.houseRate := rfl
@[simp] theorem setOwner_framing (s : State) (p : Nat) (x : Owner) : (s.setOwner p x).framing = s.framing := rfl
@[simp] theorem setOwner_instant (s : State) (p : Nat) (x : Owner) : (s.setOwner p x).instant = s.instant := rfl
@[simp] theorem setOwner_buses (s : State) (p : Nat) (x : Owner) : (s.setOwner p x).buses = s.buses := rfl
@[simp] theorem setOwner_kernels (s : State) (p : Nat) (x : Owner) : (s.setOwner p x).kernels = s.kernels := rfl
@[simp] theorem setOwner_feeds (s : State) (p : Nat) (x : Owner) : (s.setOwner p x).feeds = s.feeds := rfl
@[simp] theorem setOwner_freeList (s : State) (p : Nat) (x : Owner) : (s.setOwner p x).freeList = s.freeList := rfl
@[simp] theorem setOwner_memory (s : State) (p : Nat) (x : Owner) : (s.setOwner p x).memory = s.memory := rfl
@[simp] theorem setOwner_cues (s : State) (p : Nat) (x : Owner) : (s.setOwner p x).cues = s.cues := rfl
@[simp] theorem setOwner_lateTolerance (s : State) (p : Nat) (x : Owner) : (s.setOwner p x).lateTolerance = s.lateTolerance := rfl
@[simp] theorem setOwner_windows (s : State) (p : Nat) (x : Owner) : (s.setOwner p x).windows = s.windows := rfl
@[simp] theorem setOwner_defaults (s : State) (p : Nat) (x : Owner) : (s.setOwner p x).defaults = s.defaults := rfl
@[simp] theorem setOwner_admissionBanks (s : State) (p : Nat) (x : Owner) : (s.setOwner p x).admissionBanks = s.admissionBanks := rfl
@[simp] theorem setOwner_routeBanks (s : State) (p : Nat) (x : Owner) : (s.setOwner p x).routeBanks = s.routeBanks := rfl
@[simp] theorem setOwner_slots (s : State) (p : Nat) (x : Owner) : (s.setOwner p x).slots = s.slots := rfl
@[simp] theorem setOwner_staging (s : State) (p : Nat) (x : Owner) : (s.setOwner p x).staging = s.staging := rfl
@[simp] theorem setOwner_block (s : State) (p : Nat) (x : Owner) : (s.setOwner p x).block = s.block := rfl
@[simp] theorem setOwner_links (s : State) (p : Nat) (x : Owner) : (s.setOwner p x).links = s.links := rfl
@[simp] theorem setOwner_fifos (s : State) (p : Nat) (x : Owner) : (s.setOwner p x).fifos = s.fifos := rfl
@[simp] theorem setOwner_roles (s : State) (p : Nat) (x : Owner) : (s.setOwner p x).roles = s.roles := rfl
@[simp] theorem setOwner_reports (s : State) (p : Nat) (x : Owner) : (s.setOwner p x).reports = s.reports := rfl
@[simp] theorem setOwner_heldPlace (s : State) (p : Nat) (x : Owner) : (s.setOwner p x).heldPlace = s.heldPlace := rfl
@[simp] theorem setOwner_lostMarker (s : State) (p : Nat) (x : Owner) : (s.setOwner p x).lostMarker = s.lostMarker := rfl
@[simp] theorem setOwner_reportLink (s : State) (p : Nat) (x : Owner) : (s.setOwner p x).reportLink = s.reportLink := rfl
@[simp] theorem setOwner_reportSequence (s : State) (p : Nat) (x : Owner) : (s.setOwner p x).reportSequence = s.reportSequence := rfl
@[simp] theorem setOwner_arbiters (s : State) (p : Nat) (x : Owner) : (s.setOwner p x).arbiters = s.arbiters := rfl
@[simp] theorem setOwner_pending (s : State) (p : Nat) (x : Owner) : (s.setOwner p x).pending = s.pending := rfl

/-! ### setWindow -/

@[simp] theorem setWindow_rstnLow (s : State) (w : Nat) (x : Window) : (s.setWindow w x).rstnLow = s.rstnLow := rfl
@[simp] theorem setWindow_engine (s : State) (w : Nat) (x : Window) : (s.setWindow w x).engine = s.engine := rfl
@[simp] theorem setWindow_cause (s : State) (w : Nat) (x : Window) : (s.setWindow w x).cause = s.cause := rfl
@[simp] theorem setWindow_houseTime (s : State) (w : Nat) (x : Window) : (s.setWindow w x).houseTime = s.houseTime := rfl
@[simp] theorem setWindow_houseRate (s : State) (w : Nat) (x : Window) : (s.setWindow w x).houseRate = s.houseRate := rfl
@[simp] theorem setWindow_framing (s : State) (w : Nat) (x : Window) : (s.setWindow w x).framing = s.framing := rfl
@[simp] theorem setWindow_instant (s : State) (w : Nat) (x : Window) : (s.setWindow w x).instant = s.instant := rfl
@[simp] theorem setWindow_buses (s : State) (w : Nat) (x : Window) : (s.setWindow w x).buses = s.buses := rfl
@[simp] theorem setWindow_kernels (s : State) (w : Nat) (x : Window) : (s.setWindow w x).kernels = s.kernels := rfl
@[simp] theorem setWindow_feeds (s : State) (w : Nat) (x : Window) : (s.setWindow w x).feeds = s.feeds := rfl
@[simp] theorem setWindow_owners (s : State) (w : Nat) (x : Window) : (s.setWindow w x).owners = s.owners := rfl
@[simp] theorem setWindow_freeList (s : State) (w : Nat) (x : Window) : (s.setWindow w x).freeList = s.freeList := rfl
@[simp] theorem setWindow_memory (s : State) (w : Nat) (x : Window) : (s.setWindow w x).memory = s.memory := rfl
@[simp] theorem setWindow_cues (s : State) (w : Nat) (x : Window) : (s.setWindow w x).cues = s.cues := rfl
@[simp] theorem setWindow_lateTolerance (s : State) (w : Nat) (x : Window) : (s.setWindow w x).lateTolerance = s.lateTolerance := rfl
@[simp] theorem setWindow_defaults (s : State) (w : Nat) (x : Window) : (s.setWindow w x).defaults = s.defaults := rfl
@[simp] theorem setWindow_admissionBanks (s : State) (w : Nat) (x : Window) : (s.setWindow w x).admissionBanks = s.admissionBanks := rfl
@[simp] theorem setWindow_routeBanks (s : State) (w : Nat) (x : Window) : (s.setWindow w x).routeBanks = s.routeBanks := rfl
@[simp] theorem setWindow_slots (s : State) (w : Nat) (x : Window) : (s.setWindow w x).slots = s.slots := rfl
@[simp] theorem setWindow_staging (s : State) (w : Nat) (x : Window) : (s.setWindow w x).staging = s.staging := rfl
@[simp] theorem setWindow_block (s : State) (w : Nat) (x : Window) : (s.setWindow w x).block = s.block := rfl
@[simp] theorem setWindow_links (s : State) (w : Nat) (x : Window) : (s.setWindow w x).links = s.links := rfl
@[simp] theorem setWindow_fifos (s : State) (w : Nat) (x : Window) : (s.setWindow w x).fifos = s.fifos := rfl
@[simp] theorem setWindow_roles (s : State) (w : Nat) (x : Window) : (s.setWindow w x).roles = s.roles := rfl
@[simp] theorem setWindow_reports (s : State) (w : Nat) (x : Window) : (s.setWindow w x).reports = s.reports := rfl
@[simp] theorem setWindow_heldPlace (s : State) (w : Nat) (x : Window) : (s.setWindow w x).heldPlace = s.heldPlace := rfl
@[simp] theorem setWindow_lostMarker (s : State) (w : Nat) (x : Window) : (s.setWindow w x).lostMarker = s.lostMarker := rfl
@[simp] theorem setWindow_reportLink (s : State) (w : Nat) (x : Window) : (s.setWindow w x).reportLink = s.reportLink := rfl
@[simp] theorem setWindow_reportSequence (s : State) (w : Nat) (x : Window) : (s.setWindow w x).reportSequence = s.reportSequence := rfl
@[simp] theorem setWindow_arbiters (s : State) (w : Nat) (x : Window) : (s.setWindow w x).arbiters = s.arbiters := rfl
@[simp] theorem setWindow_pending (s : State) (w : Nat) (x : Window) : (s.setWindow w x).pending = s.pending := rfl

/-! ### setSlot -/

@[simp] theorem setSlot_rstnLow (s : State) (k : Nat) (x : Slot) : (s.setSlot k x).rstnLow = s.rstnLow := rfl
@[simp] theorem setSlot_engine (s : State) (k : Nat) (x : Slot) : (s.setSlot k x).engine = s.engine := rfl
@[simp] theorem setSlot_cause (s : State) (k : Nat) (x : Slot) : (s.setSlot k x).cause = s.cause := rfl
@[simp] theorem setSlot_houseTime (s : State) (k : Nat) (x : Slot) : (s.setSlot k x).houseTime = s.houseTime := rfl
@[simp] theorem setSlot_houseRate (s : State) (k : Nat) (x : Slot) : (s.setSlot k x).houseRate = s.houseRate := rfl
@[simp] theorem setSlot_framing (s : State) (k : Nat) (x : Slot) : (s.setSlot k x).framing = s.framing := rfl
@[simp] theorem setSlot_instant (s : State) (k : Nat) (x : Slot) : (s.setSlot k x).instant = s.instant := rfl
@[simp] theorem setSlot_buses (s : State) (k : Nat) (x : Slot) : (s.setSlot k x).buses = s.buses := rfl
@[simp] theorem setSlot_kernels (s : State) (k : Nat) (x : Slot) : (s.setSlot k x).kernels = s.kernels := rfl
@[simp] theorem setSlot_feeds (s : State) (k : Nat) (x : Slot) : (s.setSlot k x).feeds = s.feeds := rfl
@[simp] theorem setSlot_owners (s : State) (k : Nat) (x : Slot) : (s.setSlot k x).owners = s.owners := rfl
@[simp] theorem setSlot_freeList (s : State) (k : Nat) (x : Slot) : (s.setSlot k x).freeList = s.freeList := rfl
@[simp] theorem setSlot_memory (s : State) (k : Nat) (x : Slot) : (s.setSlot k x).memory = s.memory := rfl
@[simp] theorem setSlot_cues (s : State) (k : Nat) (x : Slot) : (s.setSlot k x).cues = s.cues := rfl
@[simp] theorem setSlot_lateTolerance (s : State) (k : Nat) (x : Slot) : (s.setSlot k x).lateTolerance = s.lateTolerance := rfl
@[simp] theorem setSlot_windows (s : State) (k : Nat) (x : Slot) : (s.setSlot k x).windows = s.windows := rfl
@[simp] theorem setSlot_defaults (s : State) (k : Nat) (x : Slot) : (s.setSlot k x).defaults = s.defaults := rfl
@[simp] theorem setSlot_admissionBanks (s : State) (k : Nat) (x : Slot) : (s.setSlot k x).admissionBanks = s.admissionBanks := rfl
@[simp] theorem setSlot_routeBanks (s : State) (k : Nat) (x : Slot) : (s.setSlot k x).routeBanks = s.routeBanks := rfl
@[simp] theorem setSlot_staging (s : State) (k : Nat) (x : Slot) : (s.setSlot k x).staging = s.staging := rfl
@[simp] theorem setSlot_block (s : State) (k : Nat) (x : Slot) : (s.setSlot k x).block = s.block := rfl
@[simp] theorem setSlot_links (s : State) (k : Nat) (x : Slot) : (s.setSlot k x).links = s.links := rfl
@[simp] theorem setSlot_fifos (s : State) (k : Nat) (x : Slot) : (s.setSlot k x).fifos = s.fifos := rfl
@[simp] theorem setSlot_roles (s : State) (k : Nat) (x : Slot) : (s.setSlot k x).roles = s.roles := rfl
@[simp] theorem setSlot_reports (s : State) (k : Nat) (x : Slot) : (s.setSlot k x).reports = s.reports := rfl
@[simp] theorem setSlot_heldPlace (s : State) (k : Nat) (x : Slot) : (s.setSlot k x).heldPlace = s.heldPlace := rfl
@[simp] theorem setSlot_lostMarker (s : State) (k : Nat) (x : Slot) : (s.setSlot k x).lostMarker = s.lostMarker := rfl
@[simp] theorem setSlot_reportLink (s : State) (k : Nat) (x : Slot) : (s.setSlot k x).reportLink = s.reportLink := rfl
@[simp] theorem setSlot_reportSequence (s : State) (k : Nat) (x : Slot) : (s.setSlot k x).reportSequence = s.reportSequence := rfl
@[simp] theorem setSlot_arbiters (s : State) (k : Nat) (x : Slot) : (s.setSlot k x).arbiters = s.arbiters := rfl
@[simp] theorem setSlot_pending (s : State) (k : Nat) (x : Slot) : (s.setSlot k x).pending = s.pending := rfl

/-! ### setWord -/

@[simp] theorem setWord_rstnLow (s : State) (a : Nat) (x : Sample) : (s.setWord a x).rstnLow = s.rstnLow := rfl
@[simp] theorem setWord_engine (s : State) (a : Nat) (x : Sample) : (s.setWord a x).engine = s.engine := rfl
@[simp] theorem setWord_cause (s : State) (a : Nat) (x : Sample) : (s.setWord a x).cause = s.cause := rfl
@[simp] theorem setWord_houseTime (s : State) (a : Nat) (x : Sample) : (s.setWord a x).houseTime = s.houseTime := rfl
@[simp] theorem setWord_houseRate (s : State) (a : Nat) (x : Sample) : (s.setWord a x).houseRate = s.houseRate := rfl
@[simp] theorem setWord_framing (s : State) (a : Nat) (x : Sample) : (s.setWord a x).framing = s.framing := rfl
@[simp] theorem setWord_instant (s : State) (a : Nat) (x : Sample) : (s.setWord a x).instant = s.instant := rfl
@[simp] theorem setWord_buses (s : State) (a : Nat) (x : Sample) : (s.setWord a x).buses = s.buses := rfl
@[simp] theorem setWord_kernels (s : State) (a : Nat) (x : Sample) : (s.setWord a x).kernels = s.kernels := rfl
@[simp] theorem setWord_feeds (s : State) (a : Nat) (x : Sample) : (s.setWord a x).feeds = s.feeds := rfl
@[simp] theorem setWord_owners (s : State) (a : Nat) (x : Sample) : (s.setWord a x).owners = s.owners := rfl
@[simp] theorem setWord_freeList (s : State) (a : Nat) (x : Sample) : (s.setWord a x).freeList = s.freeList := rfl
@[simp] theorem setWord_cues (s : State) (a : Nat) (x : Sample) : (s.setWord a x).cues = s.cues := rfl
@[simp] theorem setWord_lateTolerance (s : State) (a : Nat) (x : Sample) : (s.setWord a x).lateTolerance = s.lateTolerance := rfl
@[simp] theorem setWord_windows (s : State) (a : Nat) (x : Sample) : (s.setWord a x).windows = s.windows := rfl
@[simp] theorem setWord_defaults (s : State) (a : Nat) (x : Sample) : (s.setWord a x).defaults = s.defaults := rfl
@[simp] theorem setWord_admissionBanks (s : State) (a : Nat) (x : Sample) : (s.setWord a x).admissionBanks = s.admissionBanks := rfl
@[simp] theorem setWord_routeBanks (s : State) (a : Nat) (x : Sample) : (s.setWord a x).routeBanks = s.routeBanks := rfl
@[simp] theorem setWord_slots (s : State) (a : Nat) (x : Sample) : (s.setWord a x).slots = s.slots := rfl
@[simp] theorem setWord_staging (s : State) (a : Nat) (x : Sample) : (s.setWord a x).staging = s.staging := rfl
@[simp] theorem setWord_block (s : State) (a : Nat) (x : Sample) : (s.setWord a x).block = s.block := rfl
@[simp] theorem setWord_links (s : State) (a : Nat) (x : Sample) : (s.setWord a x).links = s.links := rfl
@[simp] theorem setWord_fifos (s : State) (a : Nat) (x : Sample) : (s.setWord a x).fifos = s.fifos := rfl
@[simp] theorem setWord_roles (s : State) (a : Nat) (x : Sample) : (s.setWord a x).roles = s.roles := rfl
@[simp] theorem setWord_reports (s : State) (a : Nat) (x : Sample) : (s.setWord a x).reports = s.reports := rfl
@[simp] theorem setWord_heldPlace (s : State) (a : Nat) (x : Sample) : (s.setWord a x).heldPlace = s.heldPlace := rfl
@[simp] theorem setWord_lostMarker (s : State) (a : Nat) (x : Sample) : (s.setWord a x).lostMarker = s.lostMarker := rfl
@[simp] theorem setWord_reportLink (s : State) (a : Nat) (x : Sample) : (s.setWord a x).reportLink = s.reportLink := rfl
@[simp] theorem setWord_reportSequence (s : State) (a : Nat) (x : Sample) : (s.setWord a x).reportSequence = s.reportSequence := rfl
@[simp] theorem setWord_arbiters (s : State) (a : Nat) (x : Sample) : (s.setWord a x).arbiters = s.arbiters := rfl
@[simp] theorem setWord_pending (s : State) (a : Nat) (x : Sample) : (s.setWord a x).pending = s.pending := rfl

/-! ### setArb -/

@[simp] theorem setArb_rstnLow (s : State) (l : Link) (a : Arbiter) : (s.setArb l a).rstnLow = s.rstnLow := rfl
@[simp] theorem setArb_engine (s : State) (l : Link) (a : Arbiter) : (s.setArb l a).engine = s.engine := rfl
@[simp] theorem setArb_cause (s : State) (l : Link) (a : Arbiter) : (s.setArb l a).cause = s.cause := rfl
@[simp] theorem setArb_houseTime (s : State) (l : Link) (a : Arbiter) : (s.setArb l a).houseTime = s.houseTime := rfl
@[simp] theorem setArb_houseRate (s : State) (l : Link) (a : Arbiter) : (s.setArb l a).houseRate = s.houseRate := rfl
@[simp] theorem setArb_framing (s : State) (l : Link) (a : Arbiter) : (s.setArb l a).framing = s.framing := rfl
@[simp] theorem setArb_instant (s : State) (l : Link) (a : Arbiter) : (s.setArb l a).instant = s.instant := rfl
@[simp] theorem setArb_buses (s : State) (l : Link) (a : Arbiter) : (s.setArb l a).buses = s.buses := rfl
@[simp] theorem setArb_kernels (s : State) (l : Link) (a : Arbiter) : (s.setArb l a).kernels = s.kernels := rfl
@[simp] theorem setArb_feeds (s : State) (l : Link) (a : Arbiter) : (s.setArb l a).feeds = s.feeds := rfl
@[simp] theorem setArb_owners (s : State) (l : Link) (a : Arbiter) : (s.setArb l a).owners = s.owners := rfl
@[simp] theorem setArb_freeList (s : State) (l : Link) (a : Arbiter) : (s.setArb l a).freeList = s.freeList := rfl
@[simp] theorem setArb_memory (s : State) (l : Link) (a : Arbiter) : (s.setArb l a).memory = s.memory := rfl
@[simp] theorem setArb_cues (s : State) (l : Link) (a : Arbiter) : (s.setArb l a).cues = s.cues := rfl
@[simp] theorem setArb_lateTolerance (s : State) (l : Link) (a : Arbiter) : (s.setArb l a).lateTolerance = s.lateTolerance := rfl
@[simp] theorem setArb_windows (s : State) (l : Link) (a : Arbiter) : (s.setArb l a).windows = s.windows := rfl
@[simp] theorem setArb_defaults (s : State) (l : Link) (a : Arbiter) : (s.setArb l a).defaults = s.defaults := rfl
@[simp] theorem setArb_admissionBanks (s : State) (l : Link) (a : Arbiter) : (s.setArb l a).admissionBanks = s.admissionBanks := rfl
@[simp] theorem setArb_routeBanks (s : State) (l : Link) (a : Arbiter) : (s.setArb l a).routeBanks = s.routeBanks := rfl
@[simp] theorem setArb_slots (s : State) (l : Link) (a : Arbiter) : (s.setArb l a).slots = s.slots := rfl
@[simp] theorem setArb_staging (s : State) (l : Link) (a : Arbiter) : (s.setArb l a).staging = s.staging := rfl
@[simp] theorem setArb_block (s : State) (l : Link) (a : Arbiter) : (s.setArb l a).block = s.block := rfl
@[simp] theorem setArb_links (s : State) (l : Link) (a : Arbiter) : (s.setArb l a).links = s.links := rfl
@[simp] theorem setArb_fifos (s : State) (l : Link) (a : Arbiter) : (s.setArb l a).fifos = s.fifos := rfl
@[simp] theorem setArb_roles (s : State) (l : Link) (a : Arbiter) : (s.setArb l a).roles = s.roles := rfl
@[simp] theorem setArb_reports (s : State) (l : Link) (a : Arbiter) : (s.setArb l a).reports = s.reports := rfl
@[simp] theorem setArb_heldPlace (s : State) (l : Link) (a : Arbiter) : (s.setArb l a).heldPlace = s.heldPlace := rfl
@[simp] theorem setArb_lostMarker (s : State) (l : Link) (a : Arbiter) : (s.setArb l a).lostMarker = s.lostMarker := rfl
@[simp] theorem setArb_reportLink (s : State) (l : Link) (a : Arbiter) : (s.setArb l a).reportLink = s.reportLink := rfl
@[simp] theorem setArb_reportSequence (s : State) (l : Link) (a : Arbiter) : (s.setArb l a).reportSequence = s.reportSequence := rfl
@[simp] theorem setArb_pending (s : State) (l : Link) (a : Arbiter) : (s.setArb l a).pending = s.pending := rfl

/-! ### count -/

@[simp] theorem count_rstnLow (s : State) (l : Link) (f : Counters → Counters) : (s.count l f).rstnLow = s.rstnLow := rfl
@[simp] theorem count_engine (s : State) (l : Link) (f : Counters → Counters) : (s.count l f).engine = s.engine := rfl
@[simp] theorem count_cause (s : State) (l : Link) (f : Counters → Counters) : (s.count l f).cause = s.cause := rfl
@[simp] theorem count_houseTime (s : State) (l : Link) (f : Counters → Counters) : (s.count l f).houseTime = s.houseTime := rfl
@[simp] theorem count_houseRate (s : State) (l : Link) (f : Counters → Counters) : (s.count l f).houseRate = s.houseRate := rfl
@[simp] theorem count_framing (s : State) (l : Link) (f : Counters → Counters) : (s.count l f).framing = s.framing := rfl
@[simp] theorem count_instant (s : State) (l : Link) (f : Counters → Counters) : (s.count l f).instant = s.instant := rfl
@[simp] theorem count_buses (s : State) (l : Link) (f : Counters → Counters) : (s.count l f).buses = s.buses := rfl
@[simp] theorem count_kernels (s : State) (l : Link) (f : Counters → Counters) : (s.count l f).kernels = s.kernels := rfl
@[simp] theorem count_feeds (s : State) (l : Link) (f : Counters → Counters) : (s.count l f).feeds = s.feeds := rfl
@[simp] theorem count_owners (s : State) (l : Link) (f : Counters → Counters) : (s.count l f).owners = s.owners := rfl
@[simp] theorem count_freeList (s : State) (l : Link) (f : Counters → Counters) : (s.count l f).freeList = s.freeList := rfl
@[simp] theorem count_memory (s : State) (l : Link) (f : Counters → Counters) : (s.count l f).memory = s.memory := rfl
@[simp] theorem count_cues (s : State) (l : Link) (f : Counters → Counters) : (s.count l f).cues = s.cues := rfl
@[simp] theorem count_lateTolerance (s : State) (l : Link) (f : Counters → Counters) : (s.count l f).lateTolerance = s.lateTolerance := rfl
@[simp] theorem count_windows (s : State) (l : Link) (f : Counters → Counters) : (s.count l f).windows = s.windows := rfl
@[simp] theorem count_defaults (s : State) (l : Link) (f : Counters → Counters) : (s.count l f).defaults = s.defaults := rfl
@[simp] theorem count_admissionBanks (s : State) (l : Link) (f : Counters → Counters) : (s.count l f).admissionBanks = s.admissionBanks := rfl
@[simp] theorem count_routeBanks (s : State) (l : Link) (f : Counters → Counters) : (s.count l f).routeBanks = s.routeBanks := rfl
@[simp] theorem count_slots (s : State) (l : Link) (f : Counters → Counters) : (s.count l f).slots = s.slots := rfl
@[simp] theorem count_staging (s : State) (l : Link) (f : Counters → Counters) : (s.count l f).staging = s.staging := rfl
@[simp] theorem count_block (s : State) (l : Link) (f : Counters → Counters) : (s.count l f).block = s.block := rfl
@[simp] theorem count_fifos (s : State) (l : Link) (f : Counters → Counters) : (s.count l f).fifos = s.fifos := rfl
@[simp] theorem count_roles (s : State) (l : Link) (f : Counters → Counters) : (s.count l f).roles = s.roles := rfl
@[simp] theorem count_reports (s : State) (l : Link) (f : Counters → Counters) : (s.count l f).reports = s.reports := rfl
@[simp] theorem count_heldPlace (s : State) (l : Link) (f : Counters → Counters) : (s.count l f).heldPlace = s.heldPlace := rfl
@[simp] theorem count_lostMarker (s : State) (l : Link) (f : Counters → Counters) : (s.count l f).lostMarker = s.lostMarker := rfl
@[simp] theorem count_reportLink (s : State) (l : Link) (f : Counters → Counters) : (s.count l f).reportLink = s.reportLink := rfl
@[simp] theorem count_reportSequence (s : State) (l : Link) (f : Counters → Counters) : (s.count l f).reportSequence = s.reportSequence := rfl
@[simp] theorem count_arbiters (s : State) (l : Link) (f : Counters → Counters) : (s.count l f).arbiters = s.arbiters := rfl
@[simp] theorem count_pending (s : State) (l : Link) (f : Counters → Counters) : (s.count l f).pending = s.pending := rfl

/-! ### pushReport -/

@[simp] theorem pushReport_rstnLow (s : State) (r : Report) : (s.pushReport r).rstnLow = s.rstnLow := rfl
@[simp] theorem pushReport_engine (s : State) (r : Report) : (s.pushReport r).engine = s.engine := rfl
@[simp] theorem pushReport_cause (s : State) (r : Report) : (s.pushReport r).cause = s.cause := rfl
@[simp] theorem pushReport_houseTime (s : State) (r : Report) : (s.pushReport r).houseTime = s.houseTime := rfl
@[simp] theorem pushReport_houseRate (s : State) (r : Report) : (s.pushReport r).houseRate = s.houseRate := rfl
@[simp] theorem pushReport_framing (s : State) (r : Report) : (s.pushReport r).framing = s.framing := rfl
@[simp] theorem pushReport_instant (s : State) (r : Report) : (s.pushReport r).instant = s.instant := rfl
@[simp] theorem pushReport_buses (s : State) (r : Report) : (s.pushReport r).buses = s.buses := rfl
@[simp] theorem pushReport_kernels (s : State) (r : Report) : (s.pushReport r).kernels = s.kernels := rfl
@[simp] theorem pushReport_feeds (s : State) (r : Report) : (s.pushReport r).feeds = s.feeds := rfl
@[simp] theorem pushReport_owners (s : State) (r : Report) : (s.pushReport r).owners = s.owners := rfl
@[simp] theorem pushReport_freeList (s : State) (r : Report) : (s.pushReport r).freeList = s.freeList := rfl
@[simp] theorem pushReport_memory (s : State) (r : Report) : (s.pushReport r).memory = s.memory := rfl
@[simp] theorem pushReport_cues (s : State) (r : Report) : (s.pushReport r).cues = s.cues := rfl
@[simp] theorem pushReport_lateTolerance (s : State) (r : Report) : (s.pushReport r).lateTolerance = s.lateTolerance := rfl
@[simp] theorem pushReport_windows (s : State) (r : Report) : (s.pushReport r).windows = s.windows := rfl
@[simp] theorem pushReport_defaults (s : State) (r : Report) : (s.pushReport r).defaults = s.defaults := rfl
@[simp] theorem pushReport_admissionBanks (s : State) (r : Report) : (s.pushReport r).admissionBanks = s.admissionBanks := rfl
@[simp] theorem pushReport_routeBanks (s : State) (r : Report) : (s.pushReport r).routeBanks = s.routeBanks := rfl
@[simp] theorem pushReport_slots (s : State) (r : Report) : (s.pushReport r).slots = s.slots := rfl
@[simp] theorem pushReport_staging (s : State) (r : Report) : (s.pushReport r).staging = s.staging := rfl
@[simp] theorem pushReport_block (s : State) (r : Report) : (s.pushReport r).block = s.block := rfl
@[simp] theorem pushReport_links (s : State) (r : Report) : (s.pushReport r).links = s.links := rfl
@[simp] theorem pushReport_fifos (s : State) (r : Report) : (s.pushReport r).fifos = s.fifos := rfl
@[simp] theorem pushReport_roles (s : State) (r : Report) : (s.pushReport r).roles = s.roles := rfl
@[simp] theorem pushReport_heldPlace (s : State) (r : Report) : (s.pushReport r).heldPlace = s.heldPlace := rfl
@[simp] theorem pushReport_lostMarker (s : State) (r : Report) : (s.pushReport r).lostMarker = s.lostMarker := rfl
@[simp] theorem pushReport_reportLink (s : State) (r : Report) : (s.pushReport r).reportLink = s.reportLink := rfl
@[simp] theorem pushReport_reportSequence (s : State) (r : Report) : (s.pushReport r).reportSequence = s.reportSequence := rfl
@[simp] theorem pushReport_arbiters (s : State) (r : Report) : (s.pushReport r).arbiters = s.arbiters := rfl
@[simp] theorem pushReport_pending (s : State) (r : Report) : (s.pushReport r).pending = s.pending := rfl

/-! ### setFifo -/

@[simp] theorem setFifo_rstnLow (s : State) (l : Link) (q : List (List Instr)) : (s.setFifo l q).rstnLow = s.rstnLow := rfl
@[simp] theorem setFifo_engine (s : State) (l : Link) (q : List (List Instr)) : (s.setFifo l q).engine = s.engine := rfl
@[simp] theorem setFifo_cause (s : State) (l : Link) (q : List (List Instr)) : (s.setFifo l q).cause = s.cause := rfl
@[simp] theorem setFifo_houseTime (s : State) (l : Link) (q : List (List Instr)) : (s.setFifo l q).houseTime = s.houseTime := rfl
@[simp] theorem setFifo_houseRate (s : State) (l : Link) (q : List (List Instr)) : (s.setFifo l q).houseRate = s.houseRate := rfl
@[simp] theorem setFifo_framing (s : State) (l : Link) (q : List (List Instr)) : (s.setFifo l q).framing = s.framing := rfl
@[simp] theorem setFifo_instant (s : State) (l : Link) (q : List (List Instr)) : (s.setFifo l q).instant = s.instant := rfl
@[simp] theorem setFifo_buses (s : State) (l : Link) (q : List (List Instr)) : (s.setFifo l q).buses = s.buses := rfl
@[simp] theorem setFifo_kernels (s : State) (l : Link) (q : List (List Instr)) : (s.setFifo l q).kernels = s.kernels := rfl
@[simp] theorem setFifo_feeds (s : State) (l : Link) (q : List (List Instr)) : (s.setFifo l q).feeds = s.feeds := rfl
@[simp] theorem setFifo_owners (s : State) (l : Link) (q : List (List Instr)) : (s.setFifo l q).owners = s.owners := rfl
@[simp] theorem setFifo_freeList (s : State) (l : Link) (q : List (List Instr)) : (s.setFifo l q).freeList = s.freeList := rfl
@[simp] theorem setFifo_memory (s : State) (l : Link) (q : List (List Instr)) : (s.setFifo l q).memory = s.memory := rfl
@[simp] theorem setFifo_cues (s : State) (l : Link) (q : List (List Instr)) : (s.setFifo l q).cues = s.cues := rfl
@[simp] theorem setFifo_lateTolerance (s : State) (l : Link) (q : List (List Instr)) : (s.setFifo l q).lateTolerance = s.lateTolerance := rfl
@[simp] theorem setFifo_windows (s : State) (l : Link) (q : List (List Instr)) : (s.setFifo l q).windows = s.windows := rfl
@[simp] theorem setFifo_defaults (s : State) (l : Link) (q : List (List Instr)) : (s.setFifo l q).defaults = s.defaults := rfl
@[simp] theorem setFifo_admissionBanks (s : State) (l : Link) (q : List (List Instr)) : (s.setFifo l q).admissionBanks = s.admissionBanks := rfl
@[simp] theorem setFifo_routeBanks (s : State) (l : Link) (q : List (List Instr)) : (s.setFifo l q).routeBanks = s.routeBanks := rfl
@[simp] theorem setFifo_slots (s : State) (l : Link) (q : List (List Instr)) : (s.setFifo l q).slots = s.slots := rfl
@[simp] theorem setFifo_staging (s : State) (l : Link) (q : List (List Instr)) : (s.setFifo l q).staging = s.staging := rfl
@[simp] theorem setFifo_block (s : State) (l : Link) (q : List (List Instr)) : (s.setFifo l q).block = s.block := rfl
@[simp] theorem setFifo_links (s : State) (l : Link) (q : List (List Instr)) : (s.setFifo l q).links = s.links := rfl
@[simp] theorem setFifo_roles (s : State) (l : Link) (q : List (List Instr)) : (s.setFifo l q).roles = s.roles := rfl
@[simp] theorem setFifo_reports (s : State) (l : Link) (q : List (List Instr)) : (s.setFifo l q).reports = s.reports := rfl
@[simp] theorem setFifo_heldPlace (s : State) (l : Link) (q : List (List Instr)) : (s.setFifo l q).heldPlace = s.heldPlace := rfl
@[simp] theorem setFifo_lostMarker (s : State) (l : Link) (q : List (List Instr)) : (s.setFifo l q).lostMarker = s.lostMarker := rfl
@[simp] theorem setFifo_reportLink (s : State) (l : Link) (q : List (List Instr)) : (s.setFifo l q).reportLink = s.reportLink := rfl
@[simp] theorem setFifo_reportSequence (s : State) (l : Link) (q : List (List Instr)) : (s.setFifo l q).reportSequence = s.reportSequence := rfl
@[simp] theorem setFifo_arbiters (s : State) (l : Link) (q : List (List Instr)) : (s.setFifo l q).arbiters = s.arbiters := rfl
@[simp] theorem setFifo_pending (s : State) (l : Link) (q : List (List Instr)) : (s.setFifo l q).pending = s.pending := rfl

/-! ### stage -/

@[simp] theorem stage_rstnLow (s : State) (l : Link) (i : Image) : (s.stage l i).rstnLow = s.rstnLow := rfl
@[simp] theorem stage_engine (s : State) (l : Link) (i : Image) : (s.stage l i).engine = s.engine := rfl
@[simp] theorem stage_cause (s : State) (l : Link) (i : Image) : (s.stage l i).cause = s.cause := rfl
@[simp] theorem stage_houseTime (s : State) (l : Link) (i : Image) : (s.stage l i).houseTime = s.houseTime := rfl
@[simp] theorem stage_houseRate (s : State) (l : Link) (i : Image) : (s.stage l i).houseRate = s.houseRate := rfl
@[simp] theorem stage_framing (s : State) (l : Link) (i : Image) : (s.stage l i).framing = s.framing := rfl
@[simp] theorem stage_instant (s : State) (l : Link) (i : Image) : (s.stage l i).instant = s.instant := rfl
@[simp] theorem stage_buses (s : State) (l : Link) (i : Image) : (s.stage l i).buses = s.buses := rfl
@[simp] theorem stage_kernels (s : State) (l : Link) (i : Image) : (s.stage l i).kernels = s.kernels := rfl
@[simp] theorem stage_feeds (s : State) (l : Link) (i : Image) : (s.stage l i).feeds = s.feeds := rfl
@[simp] theorem stage_owners (s : State) (l : Link) (i : Image) : (s.stage l i).owners = s.owners := rfl
@[simp] theorem stage_freeList (s : State) (l : Link) (i : Image) : (s.stage l i).freeList = s.freeList := rfl
@[simp] theorem stage_memory (s : State) (l : Link) (i : Image) : (s.stage l i).memory = s.memory := rfl
@[simp] theorem stage_cues (s : State) (l : Link) (i : Image) : (s.stage l i).cues = s.cues := rfl
@[simp] theorem stage_lateTolerance (s : State) (l : Link) (i : Image) : (s.stage l i).lateTolerance = s.lateTolerance := rfl
@[simp] theorem stage_windows (s : State) (l : Link) (i : Image) : (s.stage l i).windows = s.windows := rfl
@[simp] theorem stage_defaults (s : State) (l : Link) (i : Image) : (s.stage l i).defaults = s.defaults := rfl
@[simp] theorem stage_admissionBanks (s : State) (l : Link) (i : Image) : (s.stage l i).admissionBanks = s.admissionBanks := rfl
@[simp] theorem stage_routeBanks (s : State) (l : Link) (i : Image) : (s.stage l i).routeBanks = s.routeBanks := rfl
@[simp] theorem stage_slots (s : State) (l : Link) (i : Image) : (s.stage l i).slots = s.slots := rfl
@[simp] theorem stage_block (s : State) (l : Link) (i : Image) : (s.stage l i).block = s.block := rfl
@[simp] theorem stage_links (s : State) (l : Link) (i : Image) : (s.stage l i).links = s.links := rfl
@[simp] theorem stage_fifos (s : State) (l : Link) (i : Image) : (s.stage l i).fifos = s.fifos := rfl
@[simp] theorem stage_roles (s : State) (l : Link) (i : Image) : (s.stage l i).roles = s.roles := rfl
@[simp] theorem stage_reports (s : State) (l : Link) (i : Image) : (s.stage l i).reports = s.reports := rfl
@[simp] theorem stage_heldPlace (s : State) (l : Link) (i : Image) : (s.stage l i).heldPlace = s.heldPlace := rfl
@[simp] theorem stage_lostMarker (s : State) (l : Link) (i : Image) : (s.stage l i).lostMarker = s.lostMarker := rfl
@[simp] theorem stage_reportLink (s : State) (l : Link) (i : Image) : (s.stage l i).reportLink = s.reportLink := rfl
@[simp] theorem stage_reportSequence (s : State) (l : Link) (i : Image) : (s.stage l i).reportSequence = s.reportSequence := rfl
@[simp] theorem stage_arbiters (s : State) (l : Link) (i : Image) : (s.stage l i).arbiters = s.arbiters := rfl
@[simp] theorem stage_pending (s : State) (l : Link) (i : Image) : (s.stage l i).pending = s.pending := rfl

/-! ### setDefault -/

@[simp] theorem setDefault_rstnLow (s : State) (l : Link) (d : DefaultRule) : (s.setDefault l d).rstnLow = s.rstnLow := rfl
@[simp] theorem setDefault_engine (s : State) (l : Link) (d : DefaultRule) : (s.setDefault l d).engine = s.engine := rfl
@[simp] theorem setDefault_cause (s : State) (l : Link) (d : DefaultRule) : (s.setDefault l d).cause = s.cause := rfl
@[simp] theorem setDefault_houseTime (s : State) (l : Link) (d : DefaultRule) : (s.setDefault l d).houseTime = s.houseTime := rfl
@[simp] theorem setDefault_houseRate (s : State) (l : Link) (d : DefaultRule) : (s.setDefault l d).houseRate = s.houseRate := rfl
@[simp] theorem setDefault_framing (s : State) (l : Link) (d : DefaultRule) : (s.setDefault l d).framing = s.framing := rfl
@[simp] theorem setDefault_instant (s : State) (l : Link) (d : DefaultRule) : (s.setDefault l d).instant = s.instant := rfl
@[simp] theorem setDefault_buses (s : State) (l : Link) (d : DefaultRule) : (s.setDefault l d).buses = s.buses := rfl
@[simp] theorem setDefault_kernels (s : State) (l : Link) (d : DefaultRule) : (s.setDefault l d).kernels = s.kernels := rfl
@[simp] theorem setDefault_feeds (s : State) (l : Link) (d : DefaultRule) : (s.setDefault l d).feeds = s.feeds := rfl
@[simp] theorem setDefault_owners (s : State) (l : Link) (d : DefaultRule) : (s.setDefault l d).owners = s.owners := rfl
@[simp] theorem setDefault_freeList (s : State) (l : Link) (d : DefaultRule) : (s.setDefault l d).freeList = s.freeList := rfl
@[simp] theorem setDefault_memory (s : State) (l : Link) (d : DefaultRule) : (s.setDefault l d).memory = s.memory := rfl
@[simp] theorem setDefault_cues (s : State) (l : Link) (d : DefaultRule) : (s.setDefault l d).cues = s.cues := rfl
@[simp] theorem setDefault_lateTolerance (s : State) (l : Link) (d : DefaultRule) : (s.setDefault l d).lateTolerance = s.lateTolerance := rfl
@[simp] theorem setDefault_windows (s : State) (l : Link) (d : DefaultRule) : (s.setDefault l d).windows = s.windows := rfl
@[simp] theorem setDefault_admissionBanks (s : State) (l : Link) (d : DefaultRule) : (s.setDefault l d).admissionBanks = s.admissionBanks := rfl
@[simp] theorem setDefault_routeBanks (s : State) (l : Link) (d : DefaultRule) : (s.setDefault l d).routeBanks = s.routeBanks := rfl
@[simp] theorem setDefault_slots (s : State) (l : Link) (d : DefaultRule) : (s.setDefault l d).slots = s.slots := rfl
@[simp] theorem setDefault_staging (s : State) (l : Link) (d : DefaultRule) : (s.setDefault l d).staging = s.staging := rfl
@[simp] theorem setDefault_block (s : State) (l : Link) (d : DefaultRule) : (s.setDefault l d).block = s.block := rfl
@[simp] theorem setDefault_links (s : State) (l : Link) (d : DefaultRule) : (s.setDefault l d).links = s.links := rfl
@[simp] theorem setDefault_fifos (s : State) (l : Link) (d : DefaultRule) : (s.setDefault l d).fifos = s.fifos := rfl
@[simp] theorem setDefault_roles (s : State) (l : Link) (d : DefaultRule) : (s.setDefault l d).roles = s.roles := rfl
@[simp] theorem setDefault_reports (s : State) (l : Link) (d : DefaultRule) : (s.setDefault l d).reports = s.reports := rfl
@[simp] theorem setDefault_heldPlace (s : State) (l : Link) (d : DefaultRule) : (s.setDefault l d).heldPlace = s.heldPlace := rfl
@[simp] theorem setDefault_lostMarker (s : State) (l : Link) (d : DefaultRule) : (s.setDefault l d).lostMarker = s.lostMarker := rfl
@[simp] theorem setDefault_reportLink (s : State) (l : Link) (d : DefaultRule) : (s.setDefault l d).reportLink = s.reportLink := rfl
@[simp] theorem setDefault_reportSequence (s : State) (l : Link) (d : DefaultRule) : (s.setDefault l d).reportSequence = s.reportSequence := rfl
@[simp] theorem setDefault_arbiters (s : State) (l : Link) (d : DefaultRule) : (s.setDefault l d).arbiters = s.arbiters := rfl
@[simp] theorem setDefault_pending (s : State) (l : Link) (d : DefaultRule) : (s.setDefault l d).pending = s.pending := rfl

/-! ### withPending -/

@[simp] theorem withPending_rstnLow (s : State) (q : List Instr) : (s.withPending q).rstnLow = s.rstnLow := rfl
@[simp] theorem withPending_engine (s : State) (q : List Instr) : (s.withPending q).engine = s.engine := rfl
@[simp] theorem withPending_cause (s : State) (q : List Instr) : (s.withPending q).cause = s.cause := rfl
@[simp] theorem withPending_houseTime (s : State) (q : List Instr) : (s.withPending q).houseTime = s.houseTime := rfl
@[simp] theorem withPending_houseRate (s : State) (q : List Instr) : (s.withPending q).houseRate = s.houseRate := rfl
@[simp] theorem withPending_framing (s : State) (q : List Instr) : (s.withPending q).framing = s.framing := rfl
@[simp] theorem withPending_instant (s : State) (q : List Instr) : (s.withPending q).instant = s.instant := rfl
@[simp] theorem withPending_buses (s : State) (q : List Instr) : (s.withPending q).buses = s.buses := rfl
@[simp] theorem withPending_kernels (s : State) (q : List Instr) : (s.withPending q).kernels = s.kernels := rfl
@[simp] theorem withPending_feeds (s : State) (q : List Instr) : (s.withPending q).feeds = s.feeds := rfl
@[simp] theorem withPending_owners (s : State) (q : List Instr) : (s.withPending q).owners = s.owners := rfl
@[simp] theorem withPending_freeList (s : State) (q : List Instr) : (s.withPending q).freeList = s.freeList := rfl
@[simp] theorem withPending_memory (s : State) (q : List Instr) : (s.withPending q).memory = s.memory := rfl
@[simp] theorem withPending_cues (s : State) (q : List Instr) : (s.withPending q).cues = s.cues := rfl
@[simp] theorem withPending_lateTolerance (s : State) (q : List Instr) : (s.withPending q).lateTolerance = s.lateTolerance := rfl
@[simp] theorem withPending_windows (s : State) (q : List Instr) : (s.withPending q).windows = s.windows := rfl
@[simp] theorem withPending_defaults (s : State) (q : List Instr) : (s.withPending q).defaults = s.defaults := rfl
@[simp] theorem withPending_admissionBanks (s : State) (q : List Instr) : (s.withPending q).admissionBanks = s.admissionBanks := rfl
@[simp] theorem withPending_routeBanks (s : State) (q : List Instr) : (s.withPending q).routeBanks = s.routeBanks := rfl
@[simp] theorem withPending_slots (s : State) (q : List Instr) : (s.withPending q).slots = s.slots := rfl
@[simp] theorem withPending_staging (s : State) (q : List Instr) : (s.withPending q).staging = s.staging := rfl
@[simp] theorem withPending_block (s : State) (q : List Instr) : (s.withPending q).block = s.block := rfl
@[simp] theorem withPending_links (s : State) (q : List Instr) : (s.withPending q).links = s.links := rfl
@[simp] theorem withPending_fifos (s : State) (q : List Instr) : (s.withPending q).fifos = s.fifos := rfl
@[simp] theorem withPending_roles (s : State) (q : List Instr) : (s.withPending q).roles = s.roles := rfl
@[simp] theorem withPending_reports (s : State) (q : List Instr) : (s.withPending q).reports = s.reports := rfl
@[simp] theorem withPending_heldPlace (s : State) (q : List Instr) : (s.withPending q).heldPlace = s.heldPlace := rfl
@[simp] theorem withPending_lostMarker (s : State) (q : List Instr) : (s.withPending q).lostMarker = s.lostMarker := rfl
@[simp] theorem withPending_reportLink (s : State) (q : List Instr) : (s.withPending q).reportLink = s.reportLink := rfl
@[simp] theorem withPending_reportSequence (s : State) (q : List Instr) : (s.withPending q).reportSequence = s.reportSequence := rfl
@[simp] theorem withPending_arbiters (s : State) (q : List Instr) : (s.withPending q).arbiters = s.arbiters := rfl

/-! ### setEntry -/

@[simp] theorem setEntry_rstnLow (s : State) (t : TableId) (i : Nat) (x : Slot) : (s.setEntry t i x).rstnLow = s.rstnLow := rfl
@[simp] theorem setEntry_engine (s : State) (t : TableId) (i : Nat) (x : Slot) : (s.setEntry t i x).engine = s.engine := rfl
@[simp] theorem setEntry_cause (s : State) (t : TableId) (i : Nat) (x : Slot) : (s.setEntry t i x).cause = s.cause := rfl
@[simp] theorem setEntry_houseTime (s : State) (t : TableId) (i : Nat) (x : Slot) : (s.setEntry t i x).houseTime = s.houseTime := rfl
@[simp] theorem setEntry_houseRate (s : State) (t : TableId) (i : Nat) (x : Slot) : (s.setEntry t i x).houseRate = s.houseRate := rfl
@[simp] theorem setEntry_framing (s : State) (t : TableId) (i : Nat) (x : Slot) : (s.setEntry t i x).framing = s.framing := rfl
@[simp] theorem setEntry_instant (s : State) (t : TableId) (i : Nat) (x : Slot) : (s.setEntry t i x).instant = s.instant := rfl
@[simp] theorem setEntry_buses (s : State) (t : TableId) (i : Nat) (x : Slot) : (s.setEntry t i x).buses = s.buses := rfl
@[simp] theorem setEntry_kernels (s : State) (t : TableId) (i : Nat) (x : Slot) : (s.setEntry t i x).kernels = s.kernels := rfl
@[simp] theorem setEntry_feeds (s : State) (t : TableId) (i : Nat) (x : Slot) : (s.setEntry t i x).feeds = s.feeds := rfl
@[simp] theorem setEntry_owners (s : State) (t : TableId) (i : Nat) (x : Slot) : (s.setEntry t i x).owners = s.owners := rfl
@[simp] theorem setEntry_freeList (s : State) (t : TableId) (i : Nat) (x : Slot) : (s.setEntry t i x).freeList = s.freeList := rfl
@[simp] theorem setEntry_memory (s : State) (t : TableId) (i : Nat) (x : Slot) : (s.setEntry t i x).memory = s.memory := rfl
@[simp] theorem setEntry_cues (s : State) (t : TableId) (i : Nat) (x : Slot) : (s.setEntry t i x).cues = s.cues := rfl
@[simp] theorem setEntry_lateTolerance (s : State) (t : TableId) (i : Nat) (x : Slot) : (s.setEntry t i x).lateTolerance = s.lateTolerance := rfl
@[simp] theorem setEntry_windows (s : State) (t : TableId) (i : Nat) (x : Slot) : (s.setEntry t i x).windows = s.windows := rfl
@[simp] theorem setEntry_defaults (s : State) (t : TableId) (i : Nat) (x : Slot) : (s.setEntry t i x).defaults = s.defaults := rfl
@[simp] theorem setEntry_admissionBanks (s : State) (t : TableId) (i : Nat) (x : Slot) : (s.setEntry t i x).admissionBanks = s.admissionBanks := rfl
@[simp] theorem setEntry_routeBanks (s : State) (t : TableId) (i : Nat) (x : Slot) : (s.setEntry t i x).routeBanks = s.routeBanks := rfl
@[simp] theorem setEntry_staging (s : State) (t : TableId) (i : Nat) (x : Slot) : (s.setEntry t i x).staging = s.staging := rfl
@[simp] theorem setEntry_block (s : State) (t : TableId) (i : Nat) (x : Slot) : (s.setEntry t i x).block = s.block := rfl
@[simp] theorem setEntry_links (s : State) (t : TableId) (i : Nat) (x : Slot) : (s.setEntry t i x).links = s.links := rfl
@[simp] theorem setEntry_fifos (s : State) (t : TableId) (i : Nat) (x : Slot) : (s.setEntry t i x).fifos = s.fifos := rfl
@[simp] theorem setEntry_roles (s : State) (t : TableId) (i : Nat) (x : Slot) : (s.setEntry t i x).roles = s.roles := rfl
@[simp] theorem setEntry_reports (s : State) (t : TableId) (i : Nat) (x : Slot) : (s.setEntry t i x).reports = s.reports := rfl
@[simp] theorem setEntry_heldPlace (s : State) (t : TableId) (i : Nat) (x : Slot) : (s.setEntry t i x).heldPlace = s.heldPlace := rfl
@[simp] theorem setEntry_lostMarker (s : State) (t : TableId) (i : Nat) (x : Slot) : (s.setEntry t i x).lostMarker = s.lostMarker := rfl
@[simp] theorem setEntry_reportLink (s : State) (t : TableId) (i : Nat) (x : Slot) : (s.setEntry t i x).reportLink = s.reportLink := rfl
@[simp] theorem setEntry_reportSequence (s : State) (t : TableId) (i : Nat) (x : Slot) : (s.setEntry t i x).reportSequence = s.reportSequence := rfl
@[simp] theorem setEntry_arbiters (s : State) (t : TableId) (i : Nat) (x : Slot) : (s.setEntry t i x).arbiters = s.arbiters := rfl
@[simp] theorem setEntry_pending (s : State) (t : TableId) (i : Nat) (x : Slot) : (s.setEntry t i x).pending = s.pending := rfl

/-! ### What each update writes -/

theorem bus_setBus (s : State) (b c : Nat) (x : Bus) : (s.setBus b x).bus c = if b = c then x else s.bus c := cellGet_cellSet _ _ _ _ _
theorem kernel_setKernel (s : State) (b c : Nat) (x : KernelSet) : (s.setKernel b x).kernel c = if b = c then x else s.kernel c :=
  cellGet_cellSet _ _ _ _ _
theorem feed_setFeed (s : State) (b c : Nat) (x : Feed) : (s.setFeed b x).feed c = if b = c then x else s.feed c :=
  cellGet_cellSet _ _ _ _ _
theorem owner_setOwner (s : State) (b c : Nat) (x : Owner) : (s.setOwner b x).owner c = if b = c then x else s.owner c :=
  cellGet_cellSet _ _ _ _ _
theorem window_setWindow (s : State) (b c : Nat) (x : Window) : (s.setWindow b x).window c = if b = c then x else s.window c :=
  cellGet_cellSet _ _ _ _ _
theorem slot_setSlot (s : State) (b c : Nat) (x : Slot) : (s.setSlot b x).slot c = if b = c then x else s.slot c :=
  cellGet_cellSet _ _ _ _ _
theorem word_setWord (s : State) (b c : Nat) (x : Sample) : (s.setWord b x).word c = if b = c then x else s.word c :=
  cellGet_cellSet _ _ _ _ _

@[simp] theorem bus_setBus_same (s : State) (b : Nat) (x : Bus) : (s.setBus b x).bus b = x := cellGet_cellSet_same _ _ _ _
/-- `bus` depends on its store alone. -/
theorem bus_congr {s t : State} (h : s.buses = t.buses) : s.bus = t.bus := by unfold State.bus; rw [h]
@[simp] theorem kernel_setKernel_same (s : State) (b : Nat) (x : KernelSet) : (s.setKernel b x).kernel b = x := cellGet_cellSet_same _ _ _ _
/-- `kernel` depends on its store alone. -/
theorem kernel_congr {s t : State} (h : s.kernels = t.kernels) : s.kernel = t.kernel := by unfold State.kernel; rw [h]
@[simp] theorem feed_setFeed_same (s : State) (b : Nat) (x : Feed) : (s.setFeed b x).feed b = x := cellGet_cellSet_same _ _ _ _
/-- `feed` depends on its store alone. -/
theorem feed_congr {s t : State} (h : s.feeds = t.feeds) : s.feed = t.feed := by unfold State.feed; rw [h]
@[simp] theorem owner_setOwner_same (s : State) (b : Nat) (x : Owner) : (s.setOwner b x).owner b = x := cellGet_cellSet_same _ _ _ _
/-- `owner` depends on its store alone. -/
theorem owner_congr {s t : State} (h : s.owners = t.owners) : s.owner = t.owner := by unfold State.owner; rw [h]
@[simp] theorem window_setWindow_same (s : State) (b : Nat) (x : Window) : (s.setWindow b x).window b = x := cellGet_cellSet_same _ _ _ _
/-- `window` depends on its store alone. -/
theorem window_congr {s t : State} (h : s.windows = t.windows) : s.window = t.window := by unfold State.window; rw [h]
@[simp] theorem slot_setSlot_same (s : State) (b : Nat) (x : Slot) : (s.setSlot b x).slot b = x := cellGet_cellSet_same _ _ _ _
/-- `slot` depends on its store alone. -/
theorem slot_congr {s t : State} (h : s.slots = t.slots) : s.slot = t.slot := by unfold State.slot; rw [h]
@[simp] theorem word_setWord_same (s : State) (b : Nat) (x : Sample) : (s.setWord b x).word b = x := cellGet_cellSet_same _ _ _ _
/-- `word` depends on its store alone. -/
theorem word_congr {s t : State} (h : s.memory = t.memory) : s.word = t.word := by unfold State.word; rw [h]

@[simp] theorem kernel_setBus (s : State) (b : Nat) (x : Bus) : (s.setBus b x).kernel = s.kernel := rfl
@[simp] theorem feed_setBus (s : State) (b : Nat) (x : Bus) : (s.setBus b x).feed = s.feed := rfl
@[simp] theorem owner_setBus (s : State) (b : Nat) (x : Bus) : (s.setBus b x).owner = s.owner := rfl
@[simp] theorem window_setBus (s : State) (b : Nat) (x : Bus) : (s.setBus b x).window = s.window := rfl
@[simp] theorem slot_setBus (s : State) (b : Nat) (x : Bus) : (s.setBus b x).slot = s.slot := rfl
@[simp] theorem word_setBus (s : State) (b : Nat) (x : Bus) : (s.setBus b x).word = s.word := rfl
@[simp] theorem arb_setBus (s : State) (b : Nat) (x : Bus) : (s.setBus b x).arb = s.arb := rfl
@[simp] theorem linkUp_setBus (s : State) (b : Nat) (x : Bus) : (s.setBus b x).linkUp = s.linkUp := rfl
@[simp] theorem entryCount_setBus (s : State) (b : Nat) (x : Bus) : (s.setBus b x).entryCount = s.entryCount := rfl
@[simp] theorem work_setBus (s : State) (b : Nat) (x : Bus) : (s.setBus b x).work = s.work := rfl
@[simp] theorem bus_setKernel (s : State) (k : Nat) (x : KernelSet) : (s.setKernel k x).bus = s.bus := rfl
@[simp] theorem feed_setKernel (s : State) (k : Nat) (x : KernelSet) : (s.setKernel k x).feed = s.feed := rfl
@[simp] theorem owner_setKernel (s : State) (k : Nat) (x : KernelSet) : (s.setKernel k x).owner = s.owner := rfl
@[simp] theorem window_setKernel (s : State) (k : Nat) (x : KernelSet) : (s.setKernel k x).window = s.window := rfl
@[simp] theorem slot_setKernel (s : State) (k : Nat) (x : KernelSet) : (s.setKernel k x).slot = s.slot := rfl
@[simp] theorem word_setKernel (s : State) (k : Nat) (x : KernelSet) : (s.setKernel k x).word = s.word := rfl
@[simp] theorem arb_setKernel (s : State) (k : Nat) (x : KernelSet) : (s.setKernel k x).arb = s.arb := rfl
@[simp] theorem linkUp_setKernel (s : State) (k : Nat) (x : KernelSet) : (s.setKernel k x).linkUp = s.linkUp := rfl
@[simp] theorem entryCount_setKernel (s : State) (k : Nat) (x : KernelSet) : (s.setKernel k x).entryCount = s.entryCount := rfl
@[simp] theorem work_setKernel (s : State) (k : Nat) (x : KernelSet) : (s.setKernel k x).work = s.work := rfl
@[simp] theorem bus_setFeed (s : State) (f : Nat) (x : Feed) : (s.setFeed f x).bus = s.bus := rfl
@[simp] theorem kernel_setFeed (s : State) (f : Nat) (x : Feed) : (s.setFeed f x).kernel = s.kernel := rfl
@[simp] theorem owner_setFeed (s : State) (f : Nat) (x : Feed) : (s.setFeed f x).owner = s.owner := rfl
@[simp] theorem window_setFeed (s : State) (f : Nat) (x : Feed) : (s.setFeed f x).window = s.window := rfl
@[simp] theorem slot_setFeed (s : State) (f : Nat) (x : Feed) : (s.setFeed f x).slot = s.slot := rfl
@[simp] theorem word_setFeed (s : State) (f : Nat) (x : Feed) : (s.setFeed f x).word = s.word := rfl
@[simp] theorem arb_setFeed (s : State) (f : Nat) (x : Feed) : (s.setFeed f x).arb = s.arb := rfl
@[simp] theorem linkUp_setFeed (s : State) (f : Nat) (x : Feed) : (s.setFeed f x).linkUp = s.linkUp := rfl
@[simp] theorem entryCount_setFeed (s : State) (f : Nat) (x : Feed) : (s.setFeed f x).entryCount = s.entryCount := rfl
@[simp] theorem work_setFeed (s : State) (f : Nat) (x : Feed) : (s.setFeed f x).work = s.work := rfl
@[simp] theorem bus_setOwner (s : State) (p : Nat) (x : Owner) : (s.setOwner p x).bus = s.bus := rfl
@[simp] theorem kernel_setOwner (s : State) (p : Nat) (x : Owner) : (s.setOwner p x).kernel = s.kernel := rfl
@[simp] theorem feed_setOwner (s : State) (p : Nat) (x : Owner) : (s.setOwner p x).feed = s.feed := rfl
@[simp] theorem window_setOwner (s : State) (p : Nat) (x : Owner) : (s.setOwner p x).window = s.window := rfl
@[simp] theorem slot_setOwner (s : State) (p : Nat) (x : Owner) : (s.setOwner p x).slot = s.slot := rfl
@[simp] theorem word_setOwner (s : State) (p : Nat) (x : Owner) : (s.setOwner p x).word = s.word := rfl
@[simp] theorem arb_setOwner (s : State) (p : Nat) (x : Owner) : (s.setOwner p x).arb = s.arb := rfl
@[simp] theorem linkUp_setOwner (s : State) (p : Nat) (x : Owner) : (s.setOwner p x).linkUp = s.linkUp := rfl
@[simp] theorem entryCount_setOwner (s : State) (p : Nat) (x : Owner) : (s.setOwner p x).entryCount = s.entryCount := rfl
@[simp] theorem work_setOwner (s : State) (p : Nat) (x : Owner) : (s.setOwner p x).work = s.work := rfl
@[simp] theorem bus_setWindow (s : State) (w : Nat) (x : Window) : (s.setWindow w x).bus = s.bus := rfl
@[simp] theorem kernel_setWindow (s : State) (w : Nat) (x : Window) : (s.setWindow w x).kernel = s.kernel := rfl
@[simp] theorem feed_setWindow (s : State) (w : Nat) (x : Window) : (s.setWindow w x).feed = s.feed := rfl
@[simp] theorem owner_setWindow (s : State) (w : Nat) (x : Window) : (s.setWindow w x).owner = s.owner := rfl
@[simp] theorem slot_setWindow (s : State) (w : Nat) (x : Window) : (s.setWindow w x).slot = s.slot := rfl
@[simp] theorem word_setWindow (s : State) (w : Nat) (x : Window) : (s.setWindow w x).word = s.word := rfl
@[simp] theorem arb_setWindow (s : State) (w : Nat) (x : Window) : (s.setWindow w x).arb = s.arb := rfl
@[simp] theorem linkUp_setWindow (s : State) (w : Nat) (x : Window) : (s.setWindow w x).linkUp = s.linkUp := rfl
@[simp] theorem entryCount_setWindow (s : State) (w : Nat) (x : Window) : (s.setWindow w x).entryCount = s.entryCount := rfl
@[simp] theorem work_setWindow (s : State) (w : Nat) (x : Window) : (s.setWindow w x).work = s.work := rfl
@[simp] theorem bus_setSlot (s : State) (k : Nat) (x : Slot) : (s.setSlot k x).bus = s.bus := rfl
@[simp] theorem kernel_setSlot (s : State) (k : Nat) (x : Slot) : (s.setSlot k x).kernel = s.kernel := rfl
@[simp] theorem feed_setSlot (s : State) (k : Nat) (x : Slot) : (s.setSlot k x).feed = s.feed := rfl
@[simp] theorem owner_setSlot (s : State) (k : Nat) (x : Slot) : (s.setSlot k x).owner = s.owner := rfl
@[simp] theorem window_setSlot (s : State) (k : Nat) (x : Slot) : (s.setSlot k x).window = s.window := rfl
@[simp] theorem word_setSlot (s : State) (k : Nat) (x : Slot) : (s.setSlot k x).word = s.word := rfl
@[simp] theorem arb_setSlot (s : State) (k : Nat) (x : Slot) : (s.setSlot k x).arb = s.arb := rfl
@[simp] theorem linkUp_setSlot (s : State) (k : Nat) (x : Slot) : (s.setSlot k x).linkUp = s.linkUp := rfl
@[simp] theorem entryCount_setSlot (s : State) (k : Nat) (x : Slot) : (s.setSlot k x).entryCount = s.entryCount := rfl
@[simp] theorem work_setSlot (s : State) (k : Nat) (x : Slot) : (s.setSlot k x).work = s.work := rfl
@[simp] theorem bus_setWord (s : State) (a : Nat) (x : Sample) : (s.setWord a x).bus = s.bus := rfl
@[simp] theorem kernel_setWord (s : State) (a : Nat) (x : Sample) : (s.setWord a x).kernel = s.kernel := rfl
@[simp] theorem feed_setWord (s : State) (a : Nat) (x : Sample) : (s.setWord a x).feed = s.feed := rfl
@[simp] theorem owner_setWord (s : State) (a : Nat) (x : Sample) : (s.setWord a x).owner = s.owner := rfl
@[simp] theorem window_setWord (s : State) (a : Nat) (x : Sample) : (s.setWord a x).window = s.window := rfl
@[simp] theorem slot_setWord (s : State) (a : Nat) (x : Sample) : (s.setWord a x).slot = s.slot := rfl
@[simp] theorem arb_setWord (s : State) (a : Nat) (x : Sample) : (s.setWord a x).arb = s.arb := rfl
@[simp] theorem linkUp_setWord (s : State) (a : Nat) (x : Sample) : (s.setWord a x).linkUp = s.linkUp := rfl
@[simp] theorem entryCount_setWord (s : State) (a : Nat) (x : Sample) : (s.setWord a x).entryCount = s.entryCount := rfl
@[simp] theorem work_setWord (s : State) (a : Nat) (x : Sample) : (s.setWord a x).work = s.work := rfl
@[simp] theorem bus_setArb (s : State) (l : Link) (a : Arbiter) : (s.setArb l a).bus = s.bus := rfl
@[simp] theorem kernel_setArb (s : State) (l : Link) (a : Arbiter) : (s.setArb l a).kernel = s.kernel := rfl
@[simp] theorem feed_setArb (s : State) (l : Link) (a : Arbiter) : (s.setArb l a).feed = s.feed := rfl
@[simp] theorem owner_setArb (s : State) (l : Link) (a : Arbiter) : (s.setArb l a).owner = s.owner := rfl
@[simp] theorem window_setArb (s : State) (l : Link) (a : Arbiter) : (s.setArb l a).window = s.window := rfl
@[simp] theorem slot_setArb (s : State) (l : Link) (a : Arbiter) : (s.setArb l a).slot = s.slot := rfl
@[simp] theorem word_setArb (s : State) (l : Link) (a : Arbiter) : (s.setArb l a).word = s.word := rfl
@[simp] theorem linkUp_setArb (s : State) (l : Link) (a : Arbiter) : (s.setArb l a).linkUp = s.linkUp := rfl
@[simp] theorem entryCount_setArb (s : State) (l : Link) (a : Arbiter) : (s.setArb l a).entryCount = s.entryCount := rfl
@[simp] theorem work_setArb (s : State) (l : Link) (a : Arbiter) : (s.setArb l a).work = s.work := rfl
@[simp] theorem bus_count (s : State) (l : Link) (f : Counters → Counters) : (s.count l f).bus = s.bus := rfl
@[simp] theorem kernel_count (s : State) (l : Link) (f : Counters → Counters) : (s.count l f).kernel = s.kernel := rfl
@[simp] theorem feed_count (s : State) (l : Link) (f : Counters → Counters) : (s.count l f).feed = s.feed := rfl
@[simp] theorem owner_count (s : State) (l : Link) (f : Counters → Counters) : (s.count l f).owner = s.owner := rfl
@[simp] theorem window_count (s : State) (l : Link) (f : Counters → Counters) : (s.count l f).window = s.window := rfl
@[simp] theorem slot_count (s : State) (l : Link) (f : Counters → Counters) : (s.count l f).slot = s.slot := rfl
@[simp] theorem word_count (s : State) (l : Link) (f : Counters → Counters) : (s.count l f).word = s.word := rfl
@[simp] theorem arb_count (s : State) (l : Link) (f : Counters → Counters) : (s.count l f).arb = s.arb := rfl
@[simp] theorem entryCount_count (s : State) (l : Link) (f : Counters → Counters) : (s.count l f).entryCount = s.entryCount := rfl
@[simp] theorem work_count (s : State) (l : Link) (f : Counters → Counters) : (s.count l f).work = s.work := rfl
@[simp] theorem bus_pushReport (s : State) (r : Report) : (s.pushReport r).bus = s.bus := rfl
@[simp] theorem kernel_pushReport (s : State) (r : Report) : (s.pushReport r).kernel = s.kernel := rfl
@[simp] theorem feed_pushReport (s : State) (r : Report) : (s.pushReport r).feed = s.feed := rfl
@[simp] theorem owner_pushReport (s : State) (r : Report) : (s.pushReport r).owner = s.owner := rfl
@[simp] theorem window_pushReport (s : State) (r : Report) : (s.pushReport r).window = s.window := rfl
@[simp] theorem slot_pushReport (s : State) (r : Report) : (s.pushReport r).slot = s.slot := rfl
@[simp] theorem word_pushReport (s : State) (r : Report) : (s.pushReport r).word = s.word := rfl
@[simp] theorem arb_pushReport (s : State) (r : Report) : (s.pushReport r).arb = s.arb := rfl
@[simp] theorem linkUp_pushReport (s : State) (r : Report) : (s.pushReport r).linkUp = s.linkUp := rfl
@[simp] theorem work_pushReport (s : State) (r : Report) : (s.pushReport r).work = s.work := rfl
@[simp] theorem bus_setFifo (s : State) (l : Link) (q : List (List Instr)) : (s.setFifo l q).bus = s.bus := rfl
@[simp] theorem kernel_setFifo (s : State) (l : Link) (q : List (List Instr)) : (s.setFifo l q).kernel = s.kernel := rfl
@[simp] theorem feed_setFifo (s : State) (l : Link) (q : List (List Instr)) : (s.setFifo l q).feed = s.feed := rfl
@[simp] theorem owner_setFifo (s : State) (l : Link) (q : List (List Instr)) : (s.setFifo l q).owner = s.owner := rfl
@[simp] theorem window_setFifo (s : State) (l : Link) (q : List (List Instr)) : (s.setFifo l q).window = s.window := rfl
@[simp] theorem slot_setFifo (s : State) (l : Link) (q : List (List Instr)) : (s.setFifo l q).slot = s.slot := rfl
@[simp] theorem word_setFifo (s : State) (l : Link) (q : List (List Instr)) : (s.setFifo l q).word = s.word := rfl
@[simp] theorem arb_setFifo (s : State) (l : Link) (q : List (List Instr)) : (s.setFifo l q).arb = s.arb := rfl
@[simp] theorem linkUp_setFifo (s : State) (l : Link) (q : List (List Instr)) : (s.setFifo l q).linkUp = s.linkUp := rfl
@[simp] theorem entryCount_setFifo (s : State) (l : Link) (q : List (List Instr)) : (s.setFifo l q).entryCount = s.entryCount := rfl
@[simp] theorem work_setFifo (s : State) (l : Link) (q : List (List Instr)) : (s.setFifo l q).work = s.work := rfl
@[simp] theorem bus_stage (s : State) (l : Link) (i : Image) : (s.stage l i).bus = s.bus := rfl
@[simp] theorem kernel_stage (s : State) (l : Link) (i : Image) : (s.stage l i).kernel = s.kernel := rfl
@[simp] theorem feed_stage (s : State) (l : Link) (i : Image) : (s.stage l i).feed = s.feed := rfl
@[simp] theorem owner_stage (s : State) (l : Link) (i : Image) : (s.stage l i).owner = s.owner := rfl
@[simp] theorem window_stage (s : State) (l : Link) (i : Image) : (s.stage l i).window = s.window := rfl
@[simp] theorem slot_stage (s : State) (l : Link) (i : Image) : (s.stage l i).slot = s.slot := rfl
@[simp] theorem word_stage (s : State) (l : Link) (i : Image) : (s.stage l i).word = s.word := rfl
@[simp] theorem arb_stage (s : State) (l : Link) (i : Image) : (s.stage l i).arb = s.arb := rfl
@[simp] theorem linkUp_stage (s : State) (l : Link) (i : Image) : (s.stage l i).linkUp = s.linkUp := rfl
@[simp] theorem entryCount_stage (s : State) (l : Link) (i : Image) : (s.stage l i).entryCount = s.entryCount := rfl
@[simp] theorem work_stage (s : State) (l : Link) (i : Image) : (s.stage l i).work = s.work := rfl
@[simp] theorem bus_setDefault (s : State) (l : Link) (d : DefaultRule) : (s.setDefault l d).bus = s.bus := rfl
@[simp] theorem kernel_setDefault (s : State) (l : Link) (d : DefaultRule) : (s.setDefault l d).kernel = s.kernel := rfl
@[simp] theorem feed_setDefault (s : State) (l : Link) (d : DefaultRule) : (s.setDefault l d).feed = s.feed := rfl
@[simp] theorem owner_setDefault (s : State) (l : Link) (d : DefaultRule) : (s.setDefault l d).owner = s.owner := rfl
@[simp] theorem window_setDefault (s : State) (l : Link) (d : DefaultRule) : (s.setDefault l d).window = s.window := rfl
@[simp] theorem slot_setDefault (s : State) (l : Link) (d : DefaultRule) : (s.setDefault l d).slot = s.slot := rfl
@[simp] theorem word_setDefault (s : State) (l : Link) (d : DefaultRule) : (s.setDefault l d).word = s.word := rfl
@[simp] theorem arb_setDefault (s : State) (l : Link) (d : DefaultRule) : (s.setDefault l d).arb = s.arb := rfl
@[simp] theorem linkUp_setDefault (s : State) (l : Link) (d : DefaultRule) : (s.setDefault l d).linkUp = s.linkUp := rfl
@[simp] theorem entryCount_setDefault (s : State) (l : Link) (d : DefaultRule) : (s.setDefault l d).entryCount = s.entryCount := rfl
@[simp] theorem work_setDefault (s : State) (l : Link) (d : DefaultRule) : (s.setDefault l d).work = s.work := rfl
@[simp] theorem bus_withPending (s : State) (q : List Instr) : (s.withPending q).bus = s.bus := rfl
@[simp] theorem kernel_withPending (s : State) (q : List Instr) : (s.withPending q).kernel = s.kernel := rfl
@[simp] theorem feed_withPending (s : State) (q : List Instr) : (s.withPending q).feed = s.feed := rfl
@[simp] theorem owner_withPending (s : State) (q : List Instr) : (s.withPending q).owner = s.owner := rfl
@[simp] theorem window_withPending (s : State) (q : List Instr) : (s.withPending q).window = s.window := rfl
@[simp] theorem slot_withPending (s : State) (q : List Instr) : (s.withPending q).slot = s.slot := rfl
@[simp] theorem word_withPending (s : State) (q : List Instr) : (s.withPending q).word = s.word := rfl
@[simp] theorem arb_withPending (s : State) (q : List Instr) : (s.withPending q).arb = s.arb := rfl
@[simp] theorem linkUp_withPending (s : State) (q : List Instr) : (s.withPending q).linkUp = s.linkUp := rfl
@[simp] theorem entryCount_withPending (s : State) (q : List Instr) : (s.withPending q).entryCount = s.entryCount := rfl
@[simp] theorem work_withPending (s : State) (q : List Instr) : (s.withPending q).work = s.work := rfl
@[simp] theorem bus_setEntry (s : State) (t : TableId) (i : Nat) (x : Slot) : (s.setEntry t i x).bus = s.bus := rfl
@[simp] theorem kernel_setEntry (s : State) (t : TableId) (i : Nat) (x : Slot) : (s.setEntry t i x).kernel = s.kernel := rfl
@[simp] theorem feed_setEntry (s : State) (t : TableId) (i : Nat) (x : Slot) : (s.setEntry t i x).feed = s.feed := rfl
@[simp] theorem owner_setEntry (s : State) (t : TableId) (i : Nat) (x : Slot) : (s.setEntry t i x).owner = s.owner := rfl
@[simp] theorem window_setEntry (s : State) (t : TableId) (i : Nat) (x : Slot) : (s.setEntry t i x).window = s.window := rfl
@[simp] theorem word_setEntry (s : State) (t : TableId) (i : Nat) (x : Slot) : (s.setEntry t i x).word = s.word := rfl
@[simp] theorem arb_setEntry (s : State) (t : TableId) (i : Nat) (x : Slot) : (s.setEntry t i x).arb = s.arb := rfl
@[simp] theorem linkUp_setEntry (s : State) (t : TableId) (i : Nat) (x : Slot) : (s.setEntry t i x).linkUp = s.linkUp := rfl
@[simp] theorem entryCount_setEntry (s : State) (t : TableId) (i : Nat) (x : Slot) : (s.setEntry t i x).entryCount = s.entryCount := rfl
@[simp] theorem work_setEntry (s : State) (t : TableId) (i : Nat) (x : Slot) : (s.setEntry t i x).work = s.work := rfl

@[simp] theorem get_set_link {α : Type} (p : PerLink α) (l : Link) (x : α) : (p.set l x).get l = x := by cases l <;> rfl

theorem get_set_other_link {α : Type} (p : PerLink α) {l m : Link} (x : α) (h : l ≠ m) : (p.set l x).get m = p.get m := by
  cases l <;> cases m <;> first | rfl | exact absurd rfl h

@[simp] theorem set_get_link {α : Type} (p : PerLink α) (l : Link) : p.set l (p.get l) = p := by cases l <;> rfl

@[simp] theorem arb_setArb (s : State) (l : Link) (a : Arbiter) : (s.setArb l a).arb l = a := get_set_link _ _ _

theorem arb_setArb_other (s : State) {l m : Link} (a : Arbiter) (h : l ≠ m) : (s.setArb l a).arb m = s.arb m :=
  get_set_other_link _ _ h

@[simp] theorem linkUp_count (s : State) (l m : Link) (f : Counters → Counters) : (s.count l f).linkUp m = s.linkUp m := by
  cases l <;> cases m <;> rfl

@[simp] theorem setFifo_same (s : State) (l : Link) : s.setFifo l (s.fifos.get l) = s := by
  unfold State.setFifo; rw [set_get_link]

end Sys2Proof.Machine
end

