-- ==== Sys2Proof/Laws/Fixed.lean ====
section
/-! SUPPORT. What the work of an instant, an arrival or an event leaves as it is: settings, roles, tables' banks, the block context, FIFOs and the queue of waiting commands. -/

namespace Sys2Proof.Machine

/-- The state that no instant, arrival or event touches. -/
structure Settings where
  rstnLow : Bool
  engine : Engine
  cause : Nat
  houseRate : HouseRate
  framing : PerLink Nat
  lateTolerance : Nat
  admissionBanks : List Nat
  routeBanks : List Nat
  staging : PerLink Image
  block : Option Block
  fifos : PerLink (List (List Instr))
  roles : PerLink Role
  heldPlace : Bool
  reportLink : Link
  pending : List Instr

def State.settings (s : State) : Settings :=
  { rstnLow := s.rstnLow, engine := s.engine, cause := s.cause, houseRate := s.houseRate, framing := s.framing,
    lateTolerance := s.lateTolerance, admissionBanks := s.admissionBanks, routeBanks := s.routeBanks, staging := s.staging,
    block := s.block, fifos := s.fifos, roles := s.roles, heldPlace := s.heldPlace, reportLink := s.reportLink,
    pending := s.pending }

/-! ### Single updates -/

@[simp] theorem settings_setBus (s : State) (b : Nat) (x : Bus) : (s.setBus b x).settings = s.settings := rfl
@[simp] theorem settings_setKernel (s : State) (k : Nat) (x : KernelSet) : (s.setKernel k x).settings = s.settings := rfl
@[simp] theorem settings_setFeed (s : State) (f : Nat) (x : Feed) : (s.setFeed f x).settings = s.settings := rfl
@[simp] theorem settings_setOwner (s : State) (p : Nat) (x : Owner) : (s.setOwner p x).settings = s.settings := rfl
@[simp] theorem settings_setWindow (s : State) (w : Nat) (x : Window) : (s.setWindow w x).settings = s.settings := rfl
@[simp] theorem settings_setSlot (s : State) (k : Nat) (x : Slot) : (s.setSlot k x).settings = s.settings := rfl
@[simp] theorem settings_setEntry (s : State) (t : TableId) (i : Nat) (x : Slot) : (s.setEntry t i x).settings = s.settings := rfl
@[simp] theorem settings_setWord (s : State) (a : Nat) (x : Sample) : (s.setWord a x).settings = s.settings := rfl
@[simp] theorem settings_setArb (s : State) (l : Link) (a : Arbiter) : (s.setArb l a).settings = s.settings := rfl
@[simp] theorem settings_count (s : State) (l : Link) (f : Counters → Counters) : (s.count l f).settings = s.settings := rfl
@[simp] theorem settings_pushReport (s : State) (r : Report) : (s.pushReport r).settings = s.settings := rfl
@[simp] theorem settings_mapWork (s : State) (f : InstantWork → InstantWork) : (s.mapWork f).settings = s.settings := rfl
@[simp] theorem settings_clearWords (s : State) (ps : List Nat) (d : Nat) : (s.clearWords ps d).settings = s.settings := rfl
@[simp] theorem settings_putOutput (s : State) (n : Nat) (y : Sample) : (s.putOutput n y).settings = s.settings := by
  unfold State.putOutput; split <;> rfl
@[simp] theorem settings_putFinished (s : State) (n : Nat) (y : Sample) : (s.putFinished n y).settings = s.settings := by
  unfold State.putFinished; split <;> rfl

/-- A function that leaves the settings leaves them over a whole list. -/
theorem settings_foldl {β : Type} (f : State → β → State) (h : ∀ s b, (f s b).settings = s.settings) :
    ∀ (l : List β) (s : State), (l.foldl f s).settings = s.settings
  | [], _ => rfl
  | b :: l, s => by rw [List.foldl_cons, settings_foldl f h l, h]

@[simp] theorem settings_forRange (f : State → Nat → State) (h : ∀ s b, (f s b).settings = s.settings) (a n : Nat) (s : State) :
    (forRange f a n s).settings = s.settings := settings_foldl f h _ _

/-! ### Reports and flow frames -/

@[simp] theorem settings_offer (s : State) (r : Report) : (s.offer r).settings = s.settings := by
  unfold State.offer; split <;> rfl

@[simp] theorem settings_event (s : State) (k : EventKind) (tag : Nat) (st : Status) (x : Subject) (ws : List Word) :
    (s.event k tag st x ws).settings = s.settings := settings_offer _ _

@[simp] theorem settings_plainEvent (s : State) (k : EventKind) (x : Subject) (ws : List Word) :
    (s.plainEvent k x ws).settings = s.settings := settings_offer _ _

@[simp] theorem settings_reply (s : State) (a : Ask) (st : Status) (ws : List Word) : (s.reply a st ws).settings = s.settings := by
  unfold State.reply; split <;> rfl

@[simp] theorem settings_refuse (s : State) (a : Ask) (st : Status) (ws : List Word) :
    (s.refuse a st ws).settings = s.settings := by
  unfold State.refuse; split <;> simp

@[simp] theorem settings_stickyEvent (s : State) (n : Nat) (k : Sticky) (e : EventKind) (ws : List Word) :
    (s.stickyEvent n k e ws).settings = s.settings := by
  unfold State.stickyEvent; split <;> simp

@[simp] theorem settings_handFlow (s : State) (l : Link) (f : FlowFrame) : (s.handFlow l f).settings = s.settings := by
  unfold State.handFlow; dsimp only; repeat' split
  all_goals rfl

@[simp] theorem settings_sendFlow (s : State) (n : Nat) (p : Bool) : (s.sendFlow n p).settings = s.settings := by
  unfold State.sendFlow; dsimp only; split <;> simp

/-! ### Pages, buffers and feeds -/

@[simp] theorem settings_returnPages (s : State) (ps : List Nat) : (s.returnPages ps).settings = s.settings := by
  unfold State.returnPages; refine (settings_foldl _ ?_ _ _).trans rfl; exact fun _ _ => rfl

@[simp] theorem settings_takePages (s : State) (o : Owner) (n : Nat) : (s.takePages o n).settings = s.settings := by
  unfold State.takePages; refine (settings_foldl _ ?_ _ _).trans rfl; exact fun _ _ => rfl

@[simp] theorem settings_clearLine (s : State) (b : Nat) : (s.clearLine b).settings = s.settings := rfl

@[simp] theorem settings_writeSample (s : State) (n : Nat) (x : Sample) : (s.writeSample n x).settings = s.settings := rfl

@[simp] theorem settings_writeSamples (s : State) (n : Nat) (xs : List Sample) : (s.writeSamples n xs).settings = s.settings := by
  unfold State.writeSamples; refine settings_foldl _ ?_ _ _; exact fun _ _ => rfl

@[simp] theorem settings_consumeSamples (n : Nat) : ∀ (k : Nat) (s : State), (s.consumeSamples n k).settings = s.settings
  | 0, _ => rfl
  | k + 1, s => by rw [State.consumeSamples, settings_consumeSamples n k]; rfl

@[simp] theorem settings_pushZeros (n : Nat) : ∀ (k : Nat) (s : State), (s.pushZeros n k).settings = s.settings
  | 0, _ => rfl
  | k + 1, s => by rw [State.pushZeros, settings_pushZeros n k]; rfl

@[simp] theorem settings_arrivalFlow (s : State) (n : Nat) : (s.arrivalFlow n).settings = s.settings := by
  unfold State.arrivalFlow; dsimp only; repeat' split
  all_goals simp

@[simp] theorem settings_consumptionFlow (s : State) (n : Nat) : (s.consumptionFlow n).settings = s.settings := by
  unfold State.consumptionFlow; dsimp only; repeat' split
  all_goals simp

@[simp] theorem settings_closeFeed (s : State) (n : Nat) : (s.closeFeed n).settings = s.settings := by
  simp [State.closeFeed, State.lowerInUse]

@[simp] theorem settings_stateEvent (s : State) (n : Nat) (k : Sticky) (st : FeedState) :
    (s.stateEvent n k st).settings = s.settings := settings_stickyEvent _ _ _ _ _

@[simp] theorem settings_drainFeed (s : State) (n : Nat) : (s.drainFeed n).settings = s.settings := by
  unfold State.drainFeed; dsimp only; repeat' split
  all_goals simp

@[simp] theorem settings_drainEvent (s : State) (n : Nat) (st : FeedState) : (s.drainEvent n st).settings = s.settings := by
  unfold State.drainEvent; split <;> simp

@[simp] theorem settings_startEval (s : State) (n : Nat) : (s.startEval n).settings = s.settings := by
  unfold State.startEval; dsimp only; repeat' split
  all_goals simp

@[simp] theorem settings_feedClip (s : State) (n : Nat) (y : Int) : (s.feedClip n y).settings = s.settings := by
  simp [State.feedClip]

@[simp] theorem settings_advanceFeed (s : State) (n : Nat) : (s.advanceFeed n).settings = s.settings := by
  unfold State.advanceFeed; simp only [settings_pushZeros]; split <;> simp

@[simp] theorem settings_outputFeed (s : State) (n : Nat) : (s.outputFeed n).settings = s.settings := by
  unfold State.outputFeed; simp only [settings_putOutput]; split <;> simp

@[simp] theorem settings_starve (s : State) (n m : Nat) : (s.starve n m).settings = s.settings := by simp [State.starve]

@[simp] theorem settings_endDrain (s : State) (n : Nat) : (s.endDrain n).settings = s.settings := by simp [State.endDrain]

@[simp] theorem settings_convertFeed (s : State) (n : Nat) : (s.convertFeed n).settings = s.settings := by
  unfold State.convertFeed; dsimp only; repeat' split
  all_goals simp

@[simp] theorem settings_servoIfDue (s : State) (n : Nat) : (s.servoIfDue n).settings = s.settings := by
  unfold State.servoIfDue; split <;> simp

@[simp] theorem settings_feedStep (s : State) (n : Nat) : (s.feedStep n).settings = s.settings := by
  unfold State.feedStep; dsimp only; repeat' split
  all_goals simp

/-! ### Cues and the instant -/

@[simp] theorem settings_applyRouteGain (s : State) (i t n : Nat) : (s.applyRouteGain i t n).settings = s.settings := by
  unfold State.applyRouteGain; split <;> simp

@[simp] theorem settings_applyCue (s : State) (c : Cue) : (s.applyCue c).settings = s.settings := by
  unfold State.applyCue State.targetGone
  repeat' split
  all_goals first | rfl | simp

@[simp] theorem settings_applyDue (s : State) : s.applyDue.settings = s.settings :=
  settings_foldl _ settings_applyCue _ _

@[simp] theorem settings_settleBus (s : State) (b : Nat) : (s.settleBus b).settings = s.settings := by
  unfold State.settleBus; dsimp only; repeat' split
  all_goals simp

@[simp] theorem settings_routeStep (s : State) (i : Nat) : (s.routeStep i).settings = s.settings := by
  unfold State.routeStep; split <;> rfl

@[simp] theorem settings_busClip (s : State) (b : Nat) (r : Int) : (s.busClip b r).settings = s.settings := by
  unfold State.busClip; simp only [settings_setBus]; split <;> simp

@[simp] theorem settings_delayLine (s : State) (b : Nat) (v : Sample) : (s.delayLine b v).1.settings = s.settings := by
  unfold State.delayLine; dsimp only; split <;> rfl

@[simp] theorem settings_mixBus (s : State) (b : Nat) : (s.mixBus b).settings = s.settings := by
  unfold State.mixBus
  split
  · dsimp only
    split
    · simp only [settings_putFinished, settings_delayLine]
      split <;> simp
    · rfl
  · rfl

@[simp] theorem settings_handLink (s : State) (l : Link) (x : List (Nat × Sample)) : (s.handLink l x).settings = s.settings := by
  unfold State.handLink; dsimp only; repeat' split
  all_goals rfl

@[simp] theorem settings_handStep (s : State) (i : Nat) : (s.handStep i).settings = s.settings := by
  unfold State.handStep; split <;> simp

@[simp] theorem settings_settleTo (n : Nat) (s : State) : (s.settleTo n).settings = s.settings := by simp [State.settleTo]

@[simp] theorem settings_feedsTo (n : Nat) (s : State) : (s.feedsTo n).settings = s.settings := by simp [State.feedsTo]

@[simp] theorem settings_routesTo (n : Nat) (s : State) : (s.routesTo n).settings = s.settings := by simp [State.routesTo]

@[simp] theorem settings_mixTo (n : Nat) (s : State) : (s.mixTo n).settings = s.settings := by simp [State.mixTo]

@[simp] theorem settings_handTo (n : Nat) (s : State) : (s.handTo n).settings = s.settings := by simp [State.handTo]

@[simp] theorem settings_beginInstant (s : State) : s.beginInstant.settings = s.settings := settings_applyDue s

@[simp] theorem settings_inInstant (s : State) : s.inInstant.settings = s.settings := by
  unfold State.inInstant; split <;> simp

@[simp] theorem settings_endInstant (s : State) (t : Time) : { s with instant := none, houseTime := t }.settings = s.settings :=
  rfl

@[simp] theorem settings_finishInstant (s : State) : s.finishInstant.settings = s.settings := by
  unfold State.finishInstant
  split
  · rw [settings_endInstant, settings_handTo]
  · rfl

@[simp] theorem settings_sampleInstant (s : State) : s.sampleInstant.settings = s.settings := by
  unfold State.sampleInstant; split <;> simp

@[simp] theorem settings_between (s : State) (t : TableId) : (s.between t).settings = s.settings := by
  cases t <;> simp [State.between]

/-! ### The egress -/

@[simp] theorem settings_formReport (s : State) (l : Link) : (s.formReport l).settings = s.settings := rfl

@[simp] theorem settings_choose (s : State) (l : Link) : (s.choose l).settings = s.settings := by
  unfold State.choose; dsimp only; repeat' split
  all_goals rfl

@[simp] theorem settings_settle (s : State) : s.settle.settings = s.settings := by simp [State.settle]

@[simp] theorem settings_dropPass (s : State) (w : Nat) : (s.dropPass w).settings = s.settings := rfl

@[simp] theorem settings_egressDown (s : State) (l : Link) : (s.egressDown l).settings = s.settings := by
  unfold State.egressDown; dsimp only; refine (settings_foldl _ ?_ _ _).trans rfl; exact fun _ _ => rfl

@[simp] theorem settings_forward (s : State) (l : Link) (w : Nat) (fr : SampleFrame) : (s.forward l w fr).settings = s.settings := by
  unfold State.forward; dsimp only; split <;> rfl

/-! ### The engine state, for use -/

theorem engine_of_settings {s t : State} (h : s.settings = t.settings) : s.engine = t.engine := congrArg Settings.engine h
theorem block_of_settings {s t : State} (h : s.settings = t.settings) : s.block = t.block := congrArg Settings.block h
theorem held_of_settings {s t : State} (h : s.settings = t.settings) : s.heldPlace = t.heldPlace := congrArg Settings.heldPlace h
theorem fifos_of_settings {s t : State} (h : s.settings = t.settings) : s.fifos = t.fifos := congrArg Settings.fifos h
theorem roles_of_settings {s t : State} (h : s.settings = t.settings) : s.roles = t.roles := congrArg Settings.roles h
theorem pending_of_settings {s t : State} (h : s.settings = t.settings) : s.pending = t.pending := congrArg Settings.pending h

@[simp] theorem finishInstant_engine (s : State) : s.finishInstant.engine = s.engine := engine_of_settings (settings_finishInstant s)

end Sys2Proof.Machine
end

