-- ==== Sys2Proof/Laws/Control.lean ====
section
/-! SUPPORT. Laws of the control path: what a command row does, and a command that reaches its owner. -/

namespace Sys2Proof.Machine

/-- Every row that is a command of a control frame is that command come due on its link. -/
theorem exec_of_hdr {i : Instr} {h : Hdr} (s : State) (hi : i.hdr? = some h) : exec i s = .next (s.commandRow i h) := by
  cases i <;> first | (injection hi with hi; subst hi; rfl) | exact absurd hi (by simp [Instr.hdr?])

@[simp] theorem popFront_nil : popFront [] = [] := rfl

theorem handed_of_empty {s : State} {h : Hdr} (e : s.fifos.get h.link = []) : s.handed h = s := by
  rw [State.handed, e, popFront_nil, ← e, setFifo_same]

/-- A command that is next on its link and free to go is taken from there. -/
theorem commandDue_of_takes {s : State} {i : Instr} {h : Hdr} (t : s.Takes i h) : s.commandDue i h = (s.handed h).take i h := by
  obtain ⟨-, he, hf, hw⟩ := t
  unfold State.commandDue
  rw [if_neg he]
  dsimp only
  by_cases e : s.fifos.get h.link = []
  · rw [if_pos e, hw, handed_of_empty e]; rfl
  · have hf' := hf.resolve_left e
    rw [if_neg e, if_pos hf', hw]; rfl

theorem exec_of_takes {s : State} {i : Instr} {h : Hdr} (t : s.Takes i h) : exec i s = .next ((s.handed h).take i h).settle := by
  rw [exec_of_hdr s t.1, State.commandRow, commandDue_of_takes t]

/-- A command that reaches its owner does what its owner's rule says. -/
theorem exec_of_ready {s : State} {i : Instr} {h : Hdr} (r : s.Ready i h) :
    exec i s = .next ((s.handed h).own i (askOf h i (subjectOf i))).settle := by
  obtain ⟨t, hu, ht, hp, hl⟩ := r
  rw [exec_of_takes t]
  unfold State.take
  rw [if_neg (by simp [hu]), ht]
  dsimp only
  rw [if_neg (by simpa [State.handed, State.setFifo] using hp), if_neg (by simp [hl])]

end Sys2Proof.Machine
end

