-- ==== Sys2Proof/Laws/Pages.lean ====
section
/-! SUPPORT. Laws of the page pool: what lending and returning pages do to the owner records and the free list, and what a delay-line clear does to sample memory. -/

namespace Sys2Proof.Machine

/-- Pages given one owner. -/
def State.ownAll (s : State) (o : Owner) (ps : List Nat) : State := ps.foldl (fun t p => t.setOwner p o) s

theorem ownAll_eq (o : Owner) : ∀ (ps : List Nat) (s : State), s.ownAll o ps = { s with owners := (s.ownAll o ps).owners }
  | [], _ => rfl
  | p :: ps, s => by
    show (s.setOwner p o).ownAll o ps = _
    rw [ownAll_eq o ps]; rfl

theorem owner_ownAll (o : Owner) (q : Nat) : ∀ (ps : List Nat) (s : State),
    (s.ownAll o ps).owner q = if q ∈ ps then o else s.owner q
  | [], _ => by simp [State.ownAll]
  | p :: ps, s => by
    show ((s.setOwner p o).ownAll o ps).owner q = _
    rw [owner_ownAll o q ps]
    by_cases hq : q ∈ ps
    · simp [hq]
    · by_cases hp : q = p
      · subst hp; simp [hq, State.owner, State.setOwner, cellGet_cellSet_same]
      · simp only [hq, if_false, List.mem_cons, hp, or_self, State.owner, State.setOwner]
        exact cellGet_cellSet_other _ _ _ (Ne.symm hp)

theorem returnPages_eq (s : State) (ps : List Nat) :
    s.returnPages ps = { s with freeList := s.freeList ++ ps, owners := (s.returnPages ps).owners } :=
  ownAll_eq .free ps { s with freeList := s.freeList ++ ps }

theorem owner_returnPages (s : State) (ps : List Nat) (q : Nat) :
    (s.returnPages ps).owner q = if q ∈ ps then .free else s.owner q :=
  owner_ownAll .free q ps { s with freeList := s.freeList ++ ps }

theorem takePages_eq (s : State) (o : Owner) (n : Nat) :
    s.takePages o n = { s with freeList := s.freeList.drop n, owners := (s.takePages o n).owners } :=
  ownAll_eq o _ { s with freeList := s.freeList.drop n }

theorem owner_takePages (s : State) (o : Owner) (n q : Nat) :
    (s.takePages o n).owner q = if q ∈ s.freeList.take n then o else s.owner q :=
  owner_ownAll o q _ { s with freeList := s.freeList.drop n }

/-! ### Delay lines -/

theorem inLine_iff (pages : List Nat) (d a : Nat) :
    inLine pages d a = true ↔ ∃ q, q < d ∧ q / 256 < pages.length ∧ a = pageAddress pages q := by
  unfold inLine pageAddress
  simp only [List.any_eq_true, List.mem_range, Bool.and_eq_true, beq_iff_eq, decide_eq_true_eq, Config.pageWords]
  constructor
  · rintro ⟨e, he, h1, h2⟩
    have h3 := Nat.mod_lt a (show 256 > 0 by omega)
    refine ⟨e * 256 + a % 256, h2, by omega, ?_⟩
    have : (e * 256 + a % 256) / 256 = e := by omega
    rw [this, h1]; omega
  · rintro ⟨q, h1, h2, h3⟩
    have h4 := Nat.mod_lt q (show 256 > 0 by omega)
    refine ⟨q / 256, h2, ?_, ?_⟩ <;> omega

theorem cellGet_filter_not {α : Type} (d : α) (f : Nat → Bool) (a : Nat) : ∀ m : List (Nat × α),
    cellGet d (m.filter fun p => !f p.1) a = if f a then d else cellGet d m a
  | [] => by simp
  | (k, v) :: m => by
    have ih := cellGet_filter_not d f a m
    by_cases hk : f k = true
    · simp only [List.filter_cons, hk, Bool.not_true, Bool.false_eq_true, if_false, ih, cellGet]
      by_cases e : k = a
      · subst e; simp [hk]
      · simp [e]
    · simp only [List.filter_cons, hk, Bool.not_false, if_true, cellGet, ih]
      by_cases e : k = a
      · subst e; simp [hk]
      · simp [e]

theorem word_clearWords (s : State) (pages : List Nat) (d a : Nat) :
    (s.clearWords pages d).word a = if inLine pages d a then 0 else s.word a :=
  cellGet_filter_not 0 (inLine pages d) a s.memory

end Sys2Proof.Machine
end

