-- ==== Sys2Proof/Laws/Feeds.lean ====
section
/-! SUPPORT. Laws of feeds: what closing and opening a feed do, store by store. -/

namespace Sys2Proof.Machine

/-- A feed context as an immediate close leaves it (R53, R56). -/
def Feed.shut (x : Feed) : Feed :=
  { x with
    state := .closed, pages := [], readIndex := 0, writeIndex := 0, fill := 0, binding := none, expected := none,
    start := none, critical := false, parity := false }

theorem closeFeed_eq (s : State) (n : Nat) :
    s.closeFeed n =
      { s with
        feeds := (s.closeFeed n).feeds, freeList := s.freeList ++ (s.feed n).pages, owners := (s.closeFeed n).owners,
        kernels := (s.closeFeed n).kernels } := by
  unfold State.closeFeed State.lowerInUse; dsimp only; rw [returnPages_eq]; rfl

@[simp] theorem feed_closeFeed_same (s : State) (n : Nat) : (s.closeFeed n).feed n = (s.feed n).shut := feed_setFeed_same _ _ _

theorem feed_closeFeed_other (s : State) {n m : Nat} (h : n ≠ m) : (s.closeFeed n).feed m = s.feed m := by
  unfold State.closeFeed; dsimp only; rw [feed_setFeed, if_neg h, State.lowerInUse, returnPages_eq]; rfl

theorem owner_closeFeed (s : State) (n p : Nat) :
    (s.closeFeed n).owner p = if p ∈ (s.feed n).pages then .free else s.owner p := owner_returnPages s _ p

theorem kernel_closeFeed (s : State) (n k : Nat) :
    (s.closeFeed n).kernel k =
      if k = (s.feed n).kernel then { s.kernel k with inUse := (s.kernel k).inUse - 1 } else s.kernel k := by
  show (State.setKernel _ (s.feed n).kernel _).kernel k = _
  rw [kernel_setKernel, returnPages_eq]
  by_cases h : k = (s.feed n).kernel
  · rw [if_pos h, if_pos h.symm, h]; rfl
  · rw [if_neg h, if_neg (Ne.symm h)]; rfl

end Sys2Proof.Machine
end

