-- ==== Sys2Proof/Laws/Reports.lean ====
section
/-! SUPPORT. Laws of the report unit and of what ends a step: the queue after each answer and event, and all that the egress may change. -/

namespace Sys2Proof.Machine

/-- An event below 56 entries enters, with the marker as its earlier-lost flag, and clears the marker (R170). -/
theorem offer_enters {s : State} (r : Report) (h : s.entryCount < 56) :
    s.offer r = { s.pushReport { r with earlierLost := s.lostMarker } with lostMarker := false } := if_pos h

/-- An event at 56 entries or more is lost, and sets the marker (R170). -/
theorem offer_loses {s : State} (r : Report) (h : 56 ≤ s.entryCount) : s.offer r = { s with lostMarker := true } :=
  if_neg (Nat.not_lt.2 h)

/-- An event changes the report queue and the marker alone. -/
theorem offer_eq (s : State) (r : Report) :
    s.offer r = { s with reports := (s.offer r).reports, lostMarker := (s.offer r).lostMarker } := by
  unfold State.offer
  split <;> rfl

theorem reply_acked {s : State} {a : Ask} (st : Status) (ws : List Word) (h : a.acked = true) :
    s.reply a st ws = s.pushReport (a.report st ws) := if_pos h

theorem reply_posted {s : State} {a : Ask} (st : Status) (ws : List Word) (h : a.acked = false) : s.reply a st ws = s :=
  if_neg (by simp [h])

theorem refuse_acked {s : State} {a : Ask} (st : Status) (ws : List Word) (h : a.acked = true) :
    s.refuse a st ws = s.pushReport (a.report st ws) := if_pos h

theorem refuse_posted {s : State} {a : Ask} (st : Status) (ws : List Word) (h : a.acked = false) :
    s.refuse a st ws = s.event .commandRefused a.tag st a.subject (wordNat a.code :: ws) := if_neg (by simp [h])

/-- An answer changes the report queue and the marker alone. -/
theorem reply_eq (s : State) (a : Ask) (st : Status) (ws : List Word) :
    s.reply a st ws = { s with reports := (s.reply a st ws).reports } := by
  unfold State.reply
  split <;> rfl

theorem refuse_eq (s : State) (a : Ask) (st : Status) (ws : List Word) :
    s.refuse a st ws =
      { s with reports := (s.refuse a st ws).reports, lostMarker := (s.refuse a st ws).lostMarker } := by
  unfold State.refuse
  split
  · rfl
  · exact offer_eq _ _

/-! ### The queue's length (R168) -/

@[simp] theorem entryCount_pushReport (s : State) (r : Report) : (s.pushReport r).entryCount = s.entryCount + 1 := by
  show (s.reports ++ [{ r with time := s.houseTime }]).length + (if s.heldPlace then 1 else 0) = s.entryCount + 1
  rw [List.length_append, List.length_singleton, State.entryCount]
  omega

/-- An event never brings the queue above 56 entries. -/
theorem entryCount_offer (s : State) (r : Report) : (s.offer r).entryCount ≤ max s.entryCount 56 := by
  by_cases h : s.entryCount < 56
  · rw [offer_enters r h]
    have : (s.pushReport { r with earlierLost := s.lostMarker }).entryCount = s.entryCount + 1 := entryCount_pushReport _ _
    exact (Nat.le_of_eq this).trans (by omega)
  · rw [offer_loses r (Nat.not_lt.1 h)]
    exact Nat.le_max_left _ _

/-! ### What ends a step (R175) -/

/-- The choice of a frame changes one arbiter, the report queue and the report-frame sequence alone. -/
theorem choose_eq (s : State) (l : Link) :
    s.choose l = { s with
      arbiters := (s.choose l).arbiters, reports := (s.choose l).reports, reportSequence := (s.choose l).reportSequence } := by
  unfold State.choose
  dsimp only
  repeat' split
  all_goals rfl

theorem settle_eq (s : State) :
    s.settle = { s with
      arbiters := s.settle.arbiters, reports := s.settle.reports, reportSequence := s.settle.reportSequence } := by
  unfold State.settle
  rw [choose_eq (s.choose .l0) .l1, choose_eq s .l0]

/-- A busy or DOWN link starts no frame. -/
theorem choose_idle {s : State} {l : Link} (h : s.linkUp l = false ∨ (s.arb l).sending ≠ none) : s.choose l = s := by
  refine if_neg ?_
  rcases h with h | h
  · simp [h]
  · simp [Option.isNone_iff_eq_none, h]

/-- With both links busy or DOWN, nothing is left to do at the end of a step. -/
theorem settle_idle {s : State} (h : ∀ l, s.linkUp l = false ∨ (s.arb l).sending ≠ none) : s.settle = s := by
  rw [State.settle, choose_idle (h .l0), choose_idle (h .l1)]

end Sys2Proof.Machine
end

