-- ==== Sys2Proof/Laws/Effects.lean ====
section
/-! SUPPORT. What a step can do, said once: every step is a chain of the single effects listed in `Effect`, each with the condition under which it comes about (`exec_effects`). An invariant that each single effect keeps is kept by every step. -/

namespace Sys2Proof.Machine

/-- A feed record that may stand in place of `old`: with its pages and kernel set, open or CLOSED as it was, and in order if it was. -/
structure Feed.Succeeds (old new : Feed) : Prop where
  pages : new.pages = old.pages
  kernel : new.kernel = old.kernel
  closed : new.state = .closed ↔ old.state = .closed
  buffer : old.BufferBounded → new.BufferBounded
  step : old.StepBounded → new.StepBounded

/-- The bounds of one arbiter (R174, R177, R178). -/
abbrev Arbiter.Bounded (a : Arbiter) : Prop :=
  a.flowQueue.length ≤ Config.flowCapacity ∧ a.passQueue.length ≤ Config.passCapacity ∧ a.passCredit ≤ 255 ∧
    a.reportCredit ≤ 255

/-- The same kind of entry in a slot; of a route, the same feed and bus. -/
def Slot.Alike : Slot → Slot → Prop
  | .empty, .empty | .narrow _, .narrow _ | .wideHead _, .wideHead _ | .continuation _, .continuation _ => True
  | .route r, .route q => r.feed = q.feed ∧ r.bus = q.bus
  | _, _ => False

/-- An image that the checks of WRITE ENTRY or FILL have let through at index `i` (R123 to R125, R133). -/
abbrev State.ImageGood (s : State) (t : TableId) (i : Nat) (img : Image) : Prop :=
  i < s.tableSize t ∧ img.fits t = true ∧ (img.isWide = true → i % 2 = 0) ∧ s.duplicates img = false

/-- One effect, in which a report may enter a queue of fewer than `m` entries. The bound is 56 inside an instant or an arrival, and 64
where a command is answered; only there may the block context, the engine state or the banks change. -/
inductive Effect (m : Nat) : State → State → Prop
  /-- settings, counts and marks that no invariant speaks of -/
  | quiet (s t : State) (h : t = { s with
      rstnLow := t.rstnLow, cause := t.cause, houseTime := t.houseTime, houseRate := t.houseRate, framing := t.framing,
      instant := t.instant, lateTolerance := t.lateTolerance, defaults := t.defaults, staging := t.staging, links := t.links,
      roles := t.roles, lostMarker := t.lostMarker, reportLink := t.reportLink, reportSequence := t.reportSequence,
      pending := t.pending }) : Effect m s t
  | bus (s : State) (b : Nat) (x : Bus) (hp : x.pages = (s.bus b).pages) : Effect m s (s.setBus b x)
  | feed (s : State) (n : Nat) (x : Feed) (h : (s.feed n).Succeeds x) : Effect m s (s.setFeed n x)
  | kernel (s : State) (k : Nat) (x : KernelSet) (hi : x.inUse = (s.kernel k).inUse)
      (hr : (s.kernel k).state = .ready → 0 < (s.kernel k).inUse → x.state = .ready) : Effect m s (s.setKernel k x)
  | word (s : State) (a : Nat) (x : Sample) : Effect m s (s.setWord a x)
  | clear (s : State) (ps : List Nat) (d : Nat) : Effect m s (s.clearWords ps d)
  | window (s : State) (w : Nat) (x : Window) : Effect m s (s.setWindow w x)
  | slot (s : State) (k : Nat) (x : Slot) (h : (s.slot k).Alike x) : Effect m s (s.setSlot k x)
  | image (s : State) (t : TableId) (i : Nat) (img : Image) (hm : 56 < m)
      (h : (∀ b, s.block = some b → s.BlockSound b) → s.ImageGood t i img) : Effect m s (s.putImage t i img)
  | carry (s : State) (b : Block) (hm : 56 < m) (hb : s.block = some b) (hk : b.kind = .move)
      (hd : ∀ j ∈ s.stepSlots b.table b.next, s.entry b.table (shifted b.offset j) = .empty) :
      Effect m s (s.carry b.table b.offset (s.stepSlots b.table b.next))
  | arb (s : State) (l : Link) (a : Arbiter) (h : (s.arb l).Bounded → a.Bounded) : Effect m s (s.setArb l a)
  | fifo (s : State) (l : Link) (q : List (List Instr))
      (h : (s.fifos.get l).length ≤ Config.fifoCapacity → q.length ≤ Config.fifoCapacity) : Effect m s (s.setFifo l q)
  | cues (s : State) (q : List Cue) (h : q.Sublist s.cues) : Effect m s { s with cues := q }
  | close (s : State) (n : Nat) (h : (s.feed n).state ≠ .closed) : Effect m s (s.closeFeed n)
  | report (s : State) (r : Report) (h : s.entryCount < m) : Effect m s { s with reports := s.reports ++ [r] }
  | reportsLeave (s : State) (k : Nat) : Effect m s { s with reports := s.reports.drop k }
  | cue (s : State) (c : Cue) (hm : 56 < m) (he : s.engine = .run) (hl : s.cues.length < Config.cueCapacity) :
      Effect m s { s with cues := insertCue c s.cues }
  | openFeed (s : State) (n rate k pages target : Nat) (auto : Bool) (ret : Link) (start : Option Time) (hm : 56 < m)
      (hn : n < Config.feeds) (hc : (s.feed n).state = .closed) (hk : (s.kernel k).state = .ready)
      (hp : 0 < pages ∧ pages ≤ s.freeList.length) : Effect m s (s.openFeed n rate k pages target auto ret start)
  | retune (s : State) (n rate k : Nat) (hm : 56 < m) (hn : n < Config.feeds) (hc : (s.feed n).state ≠ .closed)
      (hk : k = (s.feed n).kernel ∨ (s.kernel k).state = .ready) : Effect m s (s.retune n rate k)
  | exchange (s : State) (b d : Nat) (hm : 56 < m) (hb : b < Config.buses)
      (hp : pagesFor d ≤ s.freeList.length + (s.bus b).pages.length) : Effect m s (s.exchangeDelay b d)
  | bank (s : State) (b : Nat) (t : TableId) (hm : 56 < m) (hb : b < Config.banks) (hf : s.bankTaken b = false) :
      Effect m s (s.addBank b t)
  | blockStarts (s : State) (b : Block) (hm : 56 < m) (hn : s.block = none) (hr : b.acked = true → s.entryCount < m)
      (hs : s.BlockSound b) : Effect m s { s with block := some b, heldPlace := b.acked }
  | blockTurns (s : State) (b c : Block) (hm : 56 < m) (hb : s.block = some b) (hc : c.acked = b.acked)
      (hs : s.BlockSound b → s.BlockSound c) : Effect m s { s with block := some c }
  | blockEnds (s : State) (b : Block) (r : Report) (hm : 56 < m) (hb : s.block = some b) (ha : b.acked = true) :
      Effect m s { s with block := none, heldPlace := false, reports := s.reports ++ [r] }
  | blockLeaves (s : State) (b : Block) (hm : 56 < m) (hb : s.block = some b) (ha : b.acked = false) :
      Effect m s { s with block := none }
  | starts (s : State) (hm : 56 < m) : Effect m s { s with engine := .run }
  | stops (s : State) (hm : 56 < m) (hc : s.cues = []) : Effect m s { s with engine := .config }
  | resets (s t : State) (hm : 56 < m) (h : t = { State.reset with
      rstnLow := t.rstnLow, engine := t.engine, cause := t.cause, reports := t.reports, pending := t.pending })
      (he : t.engine ≠ .run) (hr : t.reports.length ≤ 1) : Effect m s t

/-- A chain of effects. -/
abbrev Effects (m : Nat) : State → State → Prop := Relation.ReflTransGen (Effect m)

namespace Effects

variable {m : Nat} {s t u : State}

theorem refl (s : State) : Effects m s s := Relation.ReflTransGen.refl

theorem one (h : Effect m s t) : Effects m s t := Relation.ReflTransGen.single h

theorem andThen (h : Effects m s t) (g : Effects m t u) : Effects m s u := Relation.ReflTransGen.trans h g

theorem andOne (h : Effects m s t) (g : Effect m t u) : Effects m s u := Relation.ReflTransGen.tail h g

/-- A function of chains is a chain over a whole list. -/
theorem foldl {β : Type} (f : State → β → State) (h : ∀ s b, Effects m s (f s b)) :
    ∀ (l : List β) (s : State), Effects m s (l.foldl f s)
  | [], s => refl s
  | b :: l, s => (h s b).andThen (foldl f h l (f s b))

theorem forRange (f : State → Nat → State) (h : ∀ s b, Effects m s (f s b)) (a n : Nat) (s : State) :
    Effects m s (forRange f a n s) := foldl f h _ _

end Effects

/-- What comes about inside an instant or an arrival may come about where a command is answered. -/
theorem Effect.widen {s t : State} (h : Effect 56 s t) : Effect 64 s t := by
  cases h with
  | quiet _ h => exact .quiet _ _ h
  | bus b x hp => exact .bus _ b x hp
  | feed n x h => exact .feed _ n x h
  | kernel k x hi hr => exact .kernel _ k x hi hr
  | word a x => exact .word _ a x
  | clear ps d => exact .clear _ ps d
  | window w x => exact .window _ w x
  | slot k x h => exact .slot _ k x h
  | image _ _ _ hm _ => exact absurd hm (by decide)
  | carry _ hm _ _ _ => exact absurd hm (by decide)
  | arb l a h => exact .arb _ l a h
  | fifo l q h => exact .fifo _ l q h
  | cues q h => exact .cues _ q h
  | close n h => exact .close _ n h
  | report r h => exact .report _ r (h.trans (by decide))
  | reportsLeave k => exact .reportsLeave _ k
  | cue c hm _ _ => exact absurd hm (by decide)
  | openFeed _ _ _ _ _ _ _ _ hm _ _ _ _ => exact absurd hm (by decide)
  | retune _ _ _ hm _ _ _ => exact absurd hm (by decide)
  | exchange _ _ hm _ _ => exact absurd hm (by decide)
  | bank _ _ hm _ _ => exact absurd hm (by decide)
  | blockStarts _ hm _ _ _ => exact absurd hm (by decide)
  | blockTurns _ _ hm _ _ _ => exact absurd hm (by decide)
  | blockEnds _ _ hm _ _ => exact absurd hm (by decide)
  | blockLeaves _ hm _ _ => exact absurd hm (by decide)
  | starts hm => exact absurd hm (by decide)
  | stops hm _ => exact absurd hm (by decide)
  | resets _ hm _ _ _ => exact absurd hm (by decide)

theorem Effects.widen {s t : State} (h : Effects 56 s t) : Effects 64 s t :=
  Relation.ReflTransGen.mono (fun _ _ => Effect.widen) _ _ h

/-! ### Single operations -/

/-- Any change of the fields that no invariant speaks of. -/
theorem effects_quiet {m : Nat} {s t : State} (h : t = { s with
      rstnLow := t.rstnLow, cause := t.cause, houseTime := t.houseTime, houseRate := t.houseRate, framing := t.framing,
      instant := t.instant, lateTolerance := t.lateTolerance, defaults := t.defaults, staging := t.staging, links := t.links,
      roles := t.roles, lostMarker := t.lostMarker, reportLink := t.reportLink, reportSequence := t.reportSequence,
      pending := t.pending }) : Effects m s t := .one (.quiet s t h)

/-- A feed record changed outside its buffer, its step and its openness. -/
theorem effects_setFeed {m : Nat} (s : State) (n : Nat) (x : Feed) (h : (s.feed n).Succeeds x) : Effects m s (s.setFeed n x) :=
  .one (.feed s n x h)

theorem effects_count {m : Nat} (s : State) (l : Link) (f : Counters → Counters) : Effects m s (s.count l f) := effects_quiet rfl

theorem effects_setArb {m : Nat} (s : State) (l : Link) (a : Arbiter) (h : (s.arb l).Bounded → a.Bounded) :
    Effects m s (s.setArb l a) := .one (.arb s l a h)

theorem effects_setWindow {m : Nat} (s : State) (w : Nat) (x : Window) : Effects m s (s.setWindow w x) := .one (.window s w x)

theorem effects_setEntry {m : Nat} (s : State) (t : TableId) (i : Nat) (x : Slot)
    (h : (s.entry t i).Alike x) : Effects m s (s.setEntry t i x) := .one (.slot s _ x h)

theorem alike_route {s : State} {i : Nat} {r q : Route} (h : s.routeAt i = some r) (hf : r.feed = q.feed) (hb : r.bus = q.bus) :
    (s.entry .route i).Alike (.route q) := by
  unfold State.routeAt at h
  split at h
  · rename_i p e
    cases h
    rw [e]
    exact ⟨hf, hb⟩
  all_goals cases h

theorem alike_withHits (x : Slot) (n : Nat) : x.Alike (x.withHits n) := by
  cases x <;> first | exact trivial | exact ⟨rfl, rfl⟩

theorem alike_withActive (x : Slot) (act : Bool) : x.Alike (x.withActive act) := by
  cases x <;> first | exact trivial | exact ⟨rfl, rfl⟩

theorem effects_setBus {m : Nat} (s : State) (b : Nat) (x : Bus) (h : x.pages = (s.bus b).pages) : Effects m s (s.setBus b x) :=
  .one (.bus s b x h)

theorem effects_offer (s : State) (r : Report) : Effects 56 s (s.offer r) := by
  by_cases h : s.entryCount < 56
  · rw [offer_enters r h]
    exact (Effects.one (.report s { r with earlierLost := s.lostMarker, time := s.houseTime } h)).andThen (effects_quiet rfl)
  · rw [offer_loses r (Nat.not_lt.1 h)]
    exact effects_quiet rfl

theorem effects_event (s : State) (k : EventKind) (tag : Nat) (st : Status) (x : Subject) (ws : List Word) :
    Effects 56 s (s.event k tag st x ws) := effects_offer s _

theorem effects_plainEvent (s : State) (k : EventKind) (x : Subject) (ws : List Word) : Effects 56 s (s.plainEvent k x ws) :=
  effects_offer s _

theorem feed_event (s : State) (k : EventKind) (tag : Nat) (st : Status) (x : Subject) (ws : List Word) :
    (s.event k tag st x ws).feed = s.feed := by
  show (s.offer _).feed = s.feed
  rw [offer_eq]
  rfl

theorem effects_stickyEvent (s : State) (n : Nat) (k : Sticky) (e : EventKind) (ws : List Word) :
    Effects 56 s (s.stickyEvent n k e ws) := by
  unfold State.stickyEvent
  split
  · exact .refl s
  · refine (effects_plainEvent s e (.feed n) ws).andThen (effects_setFeed _ _ _ ?_)
    rw [State.plainEvent, feed_event]
    exact ⟨rfl, rfl, Iff.rfl, id, id⟩

theorem effects_stateEvent (s : State) (n : Nat) (k : Sticky) (st : FeedState) : Effects 56 s (s.stateEvent n k st) :=
  effects_stickyEvent _ _ _ _ _

theorem dropOldestOf_length {st : Nat} : ∀ {p q : List FlowFrame}, dropOldestOf st p = some q → q.length + 1 ≤ p.length
  | f :: p, q, h => by
    unfold dropOldestOf at h
    split at h
    · cases h; exact Nat.le_refl _
    · rcases e : dropOldestOf st p with _ | r
      · rw [e] at h; cases h
      · rw [e] at h
        cases h
        exact Nat.succ_le_succ (dropOldestOf_length e)

theorem effects_handFlow {m : Nat} (s : State) (l : Link) (f : FlowFrame) : Effects m s (s.handFlow l f) := by
  unfold State.handFlow
  split
  · dsimp only
    split
    · rename_i h
      refine effects_setArb _ _ _ fun b => ⟨?_, b.2⟩
      rw [List.length_append]
      exact h
    · rename_i h
      split
      · rename_i q hq
        refine effects_setArb _ _ _ fun b => ⟨?_, b.2⟩
        have : q.length + 1 ≤ (s.arb l).flowQueue.length := dropOldestOf_length hq
        rw [List.length_append]
        exact this.trans b.1
      · exact effects_count _ _ _
  · exact .refl s

theorem effects_sendFlow {m : Nat} (s : State) (n : Nat) (p : Bool) : Effects m s (s.sendFlow n p) := by
  unfold State.sendFlow
  dsimp only
  split
  · exact effects_handFlow _ _ _
  · exact .refl s

/-! ### Buffers, flow checks and feeds -/

/-- What a flow check, an event or a flow frame never changes of any feed. -/
def Feed.gist (f : Feed) : FeedState × List Nat × Nat × Nat × Nat × Nat :=
  (f.state, f.pages, f.readIndex, f.writeIndex, f.fill, f.kernel)

theorem feed_handFlow (s : State) (l : Link) (f : FlowFrame) : (s.handFlow l f).feed = s.feed := by
  unfold State.handFlow
  dsimp only
  repeat' split
  all_goals rfl

theorem feed_sendFlow_all (s : State) (n : Nat) (p : Bool) : (s.sendFlow n p).feed = s.feed := by
  unfold State.sendFlow
  dsimp only
  split
  · exact feed_handFlow _ _ _
  · rfl

theorem gist_stickyEvent (s : State) (n j : Nat) (k : Sticky) (e : EventKind) (ws : List Word) :
    ((s.stickyEvent n k e ws).feed j).gist = (s.feed j).gist := by
  unfold State.stickyEvent
  split
  · rfl
  · rw [feed_setFeed]
    split
    · rename_i h; subst h; rfl
    · rw [State.plainEvent, feed_event]

/-- A feed's record replaced by one with its gist, after a flow frame. -/
theorem gist_sendFlow_setFeed (s : State) (n j : Nat) (p : Bool) (x : Feed) (h : x.gist = (s.feed n).gist) :
    (((s.sendFlow n p).setFeed n x).feed j).gist = (s.feed j).gist := by
  rw [feed_setFeed]
  split
  · rename_i e; subst e; exact h
  · rw [feed_sendFlow_all]

theorem gist_setFeed (s : State) (n j : Nat) (x : Feed) (h : x.gist = (s.feed n).gist) :
    ((s.setFeed n x).feed j).gist = (s.feed j).gist := by
  rw [feed_setFeed]
  split
  · rename_i e; subst e; exact h
  · rfl

theorem gist_arrivalFlow (s : State) (n j : Nat) : ((s.arrivalFlow n).feed j).gist = (s.feed j).gist := by
  unfold State.arrivalFlow
  dsimp only
  repeat' split
  all_goals first | exact gist_sendFlow_setFeed _ _ _ _ _ rfl | exact gist_setFeed _ _ _ _ rfl

theorem gist_consumptionFlow (s : State) (n j : Nat) : ((s.consumptionFlow n).feed j).gist = (s.feed j).gist := by
  unfold State.consumptionFlow
  dsimp only
  split
  · exact gist_sendFlow_setFeed _ _ _ _ _ rfl
  · exact gist_setFeed _ _ _ _ rfl

theorem effects_sendFlow_setFeed {m : Nat} (s : State) (n : Nat) (p : Bool) (x : Feed) (h : (s.feed n).Succeeds x) :
    Effects m s ((s.sendFlow n p).setFeed n x) := by
  refine (effects_sendFlow s n p).andThen (effects_setFeed _ _ _ ?_)
  rw [feed_sendFlow_all]
  exact h

theorem effects_arrivalFlow {m : Nat} (s : State) (n : Nat) : Effects m s (s.arrivalFlow n) := by
  unfold State.arrivalFlow
  dsimp only
  repeat' split
  all_goals
    first
    | exact effects_sendFlow_setFeed _ _ _ _ ⟨rfl, rfl, Iff.rfl, id, id⟩
    | exact effects_setFeed _ _ _ ⟨rfl, rfl, Iff.rfl, id, id⟩

theorem effects_consumptionFlow {m : Nat} (s : State) (n : Nat) : Effects m s (s.consumptionFlow n) := by
  unfold State.consumptionFlow
  dsimp only
  split
  · exact effects_sendFlow_setFeed _ _ _ _ ⟨rfl, rfl, Iff.rfl, id, id⟩
  · exact effects_setFeed _ _ _ ⟨rfl, rfl, Iff.rfl, id, id⟩

theorem effects_writeSample {m : Nat} (s : State) (n : Nat) (x : Sample) (ho : (s.feed n).state ≠ .closed)
    (hf : (s.feed n).fill < (s.feed n).capacity) : Effects m s (s.writeSample n x) := by
  unfold State.writeSample
  refine (Effects.one (.word s _ x)).andThen (effects_setFeed _ _ _ ⟨rfl, rfl, Iff.rfl, fun b => ?_, id⟩)
  refine ⟨hf, ?_, fun h => absurd h ho⟩
  show ((s.feed n).writeIndex + 1) % (s.feed n).capacity = ((s.feed n).readIndex + ((s.feed n).fill + 1)) % (s.feed n).capacity
  have hw : (s.feed n).writeIndex = ((s.feed n).readIndex + (s.feed n).fill) % (s.feed n).capacity := b.2.1
  rw [hw, Nat.mod_add_mod, Nat.add_assoc]

theorem feed_writeSample_same (s : State) (n : Nat) (x : Sample) :
    (s.writeSample n x).feed n =
      { s.feed n with writeIndex := ((s.feed n).writeIndex + 1) % (s.feed n).capacity, fill := (s.feed n).fill + 1 } :=
  feed_setFeed_same _ _ _

/-- Samples that fit are written (R46, R62). -/
theorem effects_writeSamples {m : Nat} (n : Nat) : ∀ (xs : List Sample) (s : State), (s.feed n).state ≠ .closed →
    (s.feed n).fill + xs.length ≤ (s.feed n).capacity → Effects m s (s.writeSamples n xs)
  | [], s, _, _ => .refl s
  | x :: xs, s, ho, hf => by
    rw [List.length_cons] at hf
    refine (effects_writeSample s n x ho (by omega)).andThen (effects_writeSamples n xs (s.writeSample n x) ?_ ?_)
    · rw [feed_writeSample_same]; exact ho
    · rw [feed_writeSample_same]
      show (s.feed n).fill + 1 + xs.length ≤ (s.feed n).capacity
      omega

theorem feed_writeSamples_same (n : Nat) : ∀ (xs : List Sample) (s : State),
    ((s.writeSamples n xs).feed n).state = (s.feed n).state ∧ ((s.writeSamples n xs).feed n).pages = (s.feed n).pages ∧
      ((s.writeSamples n xs).feed n).fill = (s.feed n).fill + xs.length
  | [], _ => ⟨rfl, rfl, rfl⟩
  | x :: xs, s => by
    have h := feed_writeSamples_same n xs (s.writeSample n x)
    rw [feed_writeSample_same] at h
    refine ⟨h.1, h.2.1, h.2.2.trans ?_⟩
    show (s.feed n).fill + 1 + xs.length = _
    rw [List.length_cons]
    omega

theorem effects_consumeSample {m : Nat} (s : State) (n : Nat) (hf : 0 < (s.feed n).fill) : Effects m s (s.consumeSample n) := by
  unfold State.consumeSample
  refine effects_setFeed _ _ _ ⟨rfl, rfl, Iff.rfl, fun b => ?_, id⟩
  refine ⟨(Nat.sub_le _ _).trans b.1, ?_, fun h => ⟨(b.2.2 h).1, ?_⟩⟩
  · show (s.feed n).writeIndex = (((s.feed n).readIndex + 1) % (s.feed n).capacity + ((s.feed n).fill - 1)) % (s.feed n).capacity
    rw [b.2.1, Nat.mod_add_mod]
    congr 1
    omega
  · have := (b.2.2 h).2
    show (s.feed n).fill - 1 = 0
    omega

theorem feed_consumeSample_same (s : State) (n : Nat) :
    ((s.consumeSample n).feed n).state = (s.feed n).state ∧ ((s.consumeSample n).feed n).fill = (s.feed n).fill - 1 := by
  unfold State.consumeSample
  rw [feed_setFeed_same]
  exact ⟨rfl, rfl⟩

theorem effects_consumeSamples {m : Nat} (n : Nat) : ∀ (k : Nat) (s : State), k ≤ (s.feed n).fill →
    Effects m s (s.consumeSamples n k)
  | 0, s, _ => .refl s
  | k + 1, s, h => by
    refine (effects_consumeSample s n (by omega)).andThen (effects_consumeSamples n k (s.consumeSample n) ?_)
    rw [(feed_consumeSample_same s n).2]
    omega

theorem state_consumeSamples (n : Nat) : ∀ (k : Nat) (s : State), ((s.consumeSamples n k).feed n).state = (s.feed n).state
  | 0, _ => rfl
  | k + 1, s => (state_consumeSamples n k (s.consumeSample n)).trans (feed_consumeSample_same s n).1

theorem effects_pushZeros {m : Nat} (n : Nat) : ∀ (k : Nat) (s : State), Effects m s (s.pushZeros n k)
  | 0, s => .refl s
  | k + 1, s =>
    (effects_setFeed s n { s.feed n with history := pushHistory (s.feed n).history 0 } ⟨rfl, rfl, Iff.rfl, id, id⟩).andThen
      (effects_pushZeros n k _)

theorem state_pushZeros (n : Nat) : ∀ (k : Nat) (s : State), ((s.pushZeros n k).feed n).state = (s.feed n).state
  | 0, _ => rfl
  | k + 1, s => by rw [State.pushZeros, state_pushZeros n k, feed_setFeed_same]

theorem effects_drainFeed {m : Nat} (s : State) (n : Nat) (h : (s.feed n).state ≠ .closed) : Effects m s (s.drainFeed n) := by
  unfold State.drainFeed
  dsimp only
  split
  · exact .refl s
  · split
    · exact .one (.close s n h)
    · refine effects_setFeed _ _ _ ⟨rfl, rfl, ?_, fun b => ⟨b.1, b.2.1, fun e => nomatch e⟩, id⟩
      exact ⟨fun e => (nomatch e), fun e => absurd e h⟩

theorem effects_drainEvent (s : State) (n : Nat) (st : FeedState) : Effects 56 s (s.drainEvent n st) := by
  unfold State.drainEvent
  split
  · exact effects_stateEvent _ _ _ _
  · exact .refl s

end Sys2Proof.Machine
end

