-- ==== Sys2Proof/Laws/InstantEffects.lean ====
section
/-! SUPPORT. The effects of a sample instant and of an arriving frame: chains in which reports enter below 56 entries only. -/

namespace Sys2Proof.Machine

/-! ### Quiet changes -/

theorem effects_instant {m : Nat} (s : State) (w : Option InstantWork) : Effects m s { s with instant := w } :=
  effects_quiet rfl

theorem effects_defaults {m : Nat} (s : State) (d : PerLink DefaultRule) : Effects m s { s with defaults := d } := effects_quiet rfl

theorem effects_links {m : Nat} (s : State) (d : PerLink LinkState) : Effects m s { s with links := d } := effects_quiet rfl

/-- Marks and counts of a feed, which bear on no bound of it. -/
theorem effects_marks {m : Nat} (s : State) (n : Nat) (x : Feed) (h : x = { s.feed n with
      binding := x.binding, start := x.start, expected := x.expected, overflowCount := x.overflowCount
      underrunCount := x.underrunCount, gapCount := x.gapCount, lateCount := x.lateCount, sticky := x.sticky
      clipCount := x.clipCount }) : Effects m s (s.setFeed n x) := by
  have e1 : x.pages = (s.feed n).pages := by have e := congrArg Feed.pages h; exact e
  have e2 : x.kernel = (s.feed n).kernel := by have e := congrArg Feed.kernel h; exact e
  have e3 : x.state = (s.feed n).state := by have e := congrArg Feed.state h; exact e
  have e4 : x.fill = (s.feed n).fill := by have e := congrArg Feed.fill h; exact e
  have e5 : x.readIndex = (s.feed n).readIndex := by have e := congrArg Feed.readIndex h; exact e
  have e6 : x.writeIndex = (s.feed n).writeIndex := by have e := congrArg Feed.writeIndex h; exact e
  have e7 : x.position = (s.feed n).position := by have e := congrArg Feed.position h; exact e
  have e8 : x.step = (s.feed n).step := by have e := congrArg Feed.step h; exact e
  have e9 : x.nominal = (s.feed n).nominal := by have e := congrArg Feed.nominal h; exact e
  have e10 : x.correction = (s.feed n).correction := by have e := congrArg Feed.correction h; exact e
  refine effects_setFeed s n x ⟨e1, e2, by rw [e3], fun b => ?_, fun b => ?_⟩
  · unfold Feed.BufferBounded Feed.capacity at *
    rw [e1, e3, e4, e5, e6]
    exact b
  · unfold Feed.StepBounded at *
    rw [e7, e8, e9, e10]
    exact b

theorem effects_instantDone {m : Nat} (s : State) (t : Time) : Effects m s { s with instant := none, houseTime := t } :=
  effects_quiet rfl

/-! ### Conversion (R37 to R43, R50 to R55) -/

theorem effects_begins (s : State) (n : Nat) (st : Option Time) (h : (s.feed n).state ≠ .closed) :
    Effects 56 s (s.setFeed n { s.feed n with state := .running, start := st }) :=
  effects_setFeed s n { s.feed n with state := .running, start := st }
    ⟨rfl, rfl, ⟨fun e => (nomatch e), fun e => absurd e h⟩, fun b => ⟨b.1, b.2.1, fun e => (nomatch e)⟩, id⟩

theorem effects_startEval (s : State) (n : Nat) : Effects 56 s (s.startEval n) := by
  unfold State.startEval
  dsimp only
  split
  · rename_i hs
    have ho : (s.feed n).state ≠ .closed := by rw [hs]; exact fun h => (nomatch h)
    split
    · split
      · rename_i e
        exact (show Effects 56 s (s.setFeed n { s.feed n with state := .running }) from
          (by have := effects_begins s n (s.feed n).start ho; exact this)).andThen (effects_stateEvent _ _ _ _)
      · split
        · refine ((effects_begins s n none ho).andThen ?_).andThen (effects_stateEvent _ _ _ _)
          split
          · exact effects_plainEvent _ _ _ _
          · exact .refl _
        · exact .refl s
    · exact .refl s
  · rename_i hs
    have ho : (s.feed n).state ≠ .closed := by rw [hs]; exact fun h => (nomatch h)
    split
    · exact (effects_begins s n (s.feed n).start ho).andThen (effects_stateEvent _ _ _ _)
    · exact .refl s
  all_goals exact .refl s

theorem clampAbs_bounds (x : Int) (l : Nat) : -(l : Int) ≤ clampAbs x l ∧ clampAbs x l ≤ l := by
  unfold clampAbs
  omega

theorem succeeds_servo (f : Feed) : f.Succeeds f.servo :=
  ⟨rfl, rfl, Iff.rfl, id, fun h => ⟨h.1, rfl, (clampAbs_bounds _ _).1, (clampAbs_bounds _ _).2⟩⟩

theorem effects_servoIfDue {m : Nat} (s : State) (n : Nat) : Effects m s (s.servoIfDue n) := by
  unfold State.servoIfDue
  split
  · exact effects_setFeed _ _ _ (succeeds_servo _)
  · exact .refl s

theorem succeeds_advanced (f : Feed) : f.Succeeds { f with position := f.advanced } := by
  refine ⟨rfl, rfl, Iff.rfl, id, fun h => ⟨?_, h.2⟩⟩
  show (((f.position : Int) + f.step) % 16777216).toNat < 16777216
  omega

theorem effects_advanceFeed {m : Nat} (s : State) (n : Nat) : Effects m s (s.advanceFeed n) := by
  unfold State.advanceFeed
  dsimp only
  have h1 : Effects m s (s.setFeed n { s.feed n with position := (s.feed n).advanced }) :=
    effects_setFeed s n { s.feed n with position := (s.feed n).advanced } (succeeds_advanced _)
  have h2 : min (s.feed n).carry (s.feed n).fill ≤ ((s.setFeed n { s.feed n with position := (s.feed n).advanced }).feed n).fill := by
    rw [feed_setFeed_same]
    exact Nat.min_le_right _ _
  refine ((h1.andThen (effects_consumeSamples n (min (s.feed n).carry (s.feed n).fill) _ h2)).andThen ?_).andThen
    (effects_pushZeros n _ _)
  · split
    · exact .refl _
    · exact effects_consumptionFlow _ _

theorem state_advanceFeed (s : State) (n : Nat) : ((s.advanceFeed n).feed n).state = (s.feed n).state := by
  unfold State.advanceFeed
  dsimp only
  rw [state_pushZeros]
  have h : (((s.setFeed n { s.feed n with position := (s.feed n).advanced }).consumeSamples n
      (min (s.feed n).carry (s.feed n).fill)).feed n).state = (s.feed n).state := by
    rw [state_consumeSamples, feed_setFeed_same]
  split
  · exact h
  · exact (congrArg Prod.fst (gist_consumptionFlow _ n n)).trans h

theorem effects_putOutput {m : Nat} (s : State) (n : Nat) (y : Sample) : Effects m s (s.putOutput n y) := by
  unfold State.putOutput
  split
  · exact effects_quiet rfl
  · exact .refl s

theorem feed_putOutput (s : State) (n : Nat) (y : Sample) : (s.putOutput n y).feed = s.feed := by
  unfold State.putOutput
  split <;> rfl

theorem effects_feedClip (s : State) (n : Nat) (y : Int) : Effects 56 s (s.feedClip n y) :=
  (effects_setFeed s n { s.feed n with clipCount := add16 (s.feed n).clipCount 1 } ⟨rfl, rfl, Iff.rfl, id, id⟩).andThen
    (effects_stickyEvent _ _ _ _ _)

theorem effects_outputFeed (s : State) (n : Nat) : Effects 56 s (s.outputFeed n) := by
  unfold State.outputFeed
  dsimp only
  refine Effects.andThen ?_ (effects_putOutput _ _ _)
  split
  · exact effects_feedClip _ _ _
  · exact .refl s

theorem state_outputFeed (s : State) (n : Nat) : ((s.outputFeed n).feed n).state = (s.feed n).state := by
  unfold State.outputFeed
  dsimp only
  rw [feed_putOutput]
  split
  · refine (congrArg Prod.fst (gist_stickyEvent _ n n _ _ _)).trans ?_
    rw [feed_setFeed_same]
    rfl
  · rfl

theorem effects_starve (s : State) (n k : Nat) (h : (s.feed n).state ≠ .closed) : Effects 56 s (s.starve n k) := by
  unfold State.starve
  refine ((effects_setFeed s n _ ?_).andThen (effects_stickyEvent _ _ _ _ _)).andThen (effects_stateEvent _ _ _ _)
  exact ⟨rfl, rfl, ⟨fun e => (nomatch e), fun e => absurd e h⟩, fun b => ⟨b.1, b.2.1, fun e => (nomatch e)⟩, id⟩

theorem effects_convertFeed (s : State) (n : Nat) : Effects 56 s (s.convertFeed n) := by
  have h1 : Effects 56 s ((s.advanceFeed n).outputFeed n) := (effects_advanceFeed s n).andThen (effects_outputFeed _ n)
  have hs : (((s.advanceFeed n).outputFeed n).feed n).state = (s.feed n).state :=
    (state_outputFeed _ n).trans (state_advanceFeed s n)
  unfold State.convertFeed
  dsimp only
  split
  · split
    · rename_i hr
      exact h1.andThen (effects_starve _ _ _ (by rw [hs, hr]; exact fun h => (nomatch h)))
    · rename_i hr
      exact h1.andThen ((Effects.one (.close _ n (by rw [hs, hr]; exact fun h => (nomatch h)))).andThen
        (effects_stateEvent _ _ _ _))
    all_goals exact h1
  · exact h1

theorem effects_feedStep (s : State) (n : Nat) : Effects 56 s (s.feedStep n) := by
  have h1 : Effects 56 s ((s.startEval n).servoIfDue n) := (effects_startEval s n).andThen (effects_servoIfDue _ n)
  unfold State.feedStep
  dsimp only
  split
  all_goals first | exact h1.andThen (effects_convertFeed _ n) | exact h1

/-! ### Cues, buses and links within an instant (R12, R16, R19, R24 to R26, R94, R176) -/

theorem effects_applyRouteGain {m : Nat} (s : State) (i t n : Nat) : Effects m s (s.applyRouteGain i t n) := by
  unfold State.applyRouteGain
  split
  · rename_i h
    refine effects_setEntry _ _ _ _ (alike_route h ?_ ?_) <;> (unfold Route.setGain; split <;> rfl)
  · exact .refl s

theorem effects_applyCue (s : State) (c : Cue) : Effects 56 s (s.applyCue c) := by
  unfold State.applyCue
  split
  · split
    · exact effects_event _ _ _ _ _ _
    · split
      · exact effects_event _ _ _ _ _ _
      · exact effects_applyRouteGain _ _ _ _
  · exact effects_setBus _ _ _ rfl
  · split
    · exact effects_setBus _ _ _ rfl
    · exact .refl s
  · split
    · exact effects_setBus _ _ _ rfl
    · exact .refl s
  · split
    · exact effects_event _ _ _ _ _ _
    · rename_i h
      split
      · exact .one (.close s _ h)
      · exact (effects_drainFeed s _ h).andThen (effects_drainEvent _ _ _)
      · exact .refl s

theorem effects_applyDue (s : State) : Effects 56 s s.applyDue :=
  (Effects.one (.cues s _ List.filter_sublist)).andThen (Effects.foldl State.applyCue effects_applyCue _ _)

theorem effects_clearLine {m : Nat} (s : State) (b : Nat) : Effects m s (s.clearLine b) :=
  (Effects.one (.clear s _ _)).andThen (effects_setBus _ _ _ rfl)

theorem effects_settleBus {m : Nat} (s : State) (b : Nat) : Effects m s (s.settleBus b) := by
  unfold State.settleBus
  dsimp only
  split
  · split
    · refine (effects_clearLine s b).andThen (effects_setBus _ _ _ ?_)
      unfold State.clearLine
      rw [bus_setBus_same]
    · exact effects_setBus _ _ _ rfl
    all_goals exact .refl s
  · exact .refl s

theorem feed_advance (r : Route) : r.advance.feed = r.feed := by
  unfold Route.advance
  repeat' split
  all_goals rfl

theorem bus_advance (r : Route) : r.advance.bus = r.bus := by
  unfold Route.advance
  repeat' split
  all_goals rfl

theorem effects_routeStep {m : Nat} (s : State) (i : Nat) : Effects m s (s.routeStep i) := by
  unfold State.routeStep
  split
  · rename_i r _ hr _
    exact (effects_quiet rfl).andThen
      (effects_setEntry _ _ _ _ (alike_route (s := s) hr (feed_advance r).symm (bus_advance r).symm))
  · exact .refl s

theorem bus_event (s : State) (k : EventKind) (tag : Nat) (st : Status) (x : Subject) (ws : List Word) :
    (s.event k tag st x ws).bus = s.bus := by
  show (s.offer _).bus = s.bus
  rw [offer_eq]
  rfl

theorem effects_busClip (s : State) (b : Nat) (r : Int) : Effects 56 s (s.busClip b r) := by
  unfold State.busClip
  dsimp only
  split
  · exact effects_setBus _ _ _ rfl
  · refine (effects_plainEvent _ _ _ _).andThen (effects_setBus _ _ _ ?_)
    rw [State.plainEvent, bus_event]

theorem effects_delayLine {m : Nat} (s : State) (b : Nat) (v : Sample) : Effects m s (s.delayLine b v).1 := by
  unfold State.delayLine
  dsimp only
  split
  · exact .refl s
  · exact (Effects.one (.word s _ _)).andThen (effects_setBus _ _ _ rfl)

theorem effects_putFinished {m : Nat} (s : State) (b : Nat) (v : Sample) : Effects m s (s.putFinished b v) := by
  unfold State.putFinished
  split
  · exact effects_quiet rfl
  · exact .refl s

theorem effects_mixBus (s : State) (b : Nat) : Effects 56 s (s.mixBus b) := by
  unfold State.mixBus
  split
  · dsimp only
    split
    · refine Effects.andThen ?_ (effects_putFinished _ _ _)
      refine Effects.andThen ?_ (effects_delayLine _ _ _)
      split
      · exact effects_busClip _ _ _
      · exact .refl s
    · exact .refl s
  · exact .refl s

theorem effects_handLink {m : Nat} (s : State) (l : Link) (x : List (Nat × Sample)) : Effects m s (s.handLink l x) := by
  unfold State.handLink
  split
  · exact .refl s
  · dsimp only
    split
    · refine effects_setArb _ _ _ fun h => ?_
      unfold Arbiter.complete
      split <;> exact h
    · exact effects_setArb _ _ _ fun h => h

theorem effects_handStep {m : Nat} (s : State) (i : Nat) : Effects m s (s.handStep i) := by
  unfold State.handStep
  split
  · exact effects_handLink _ _ _
  · exact .refl s

theorem effects_mapWork {m : Nat} (s : State) (f : InstantWork → InstantWork) : Effects m s (s.mapWork f) := effects_instant s _

theorem effects_settleTo (n : Nat) (s : State) : Effects 56 s (s.settleTo n) :=
  (Effects.forRange _ effects_settleBus _ _ _).andThen (effects_mapWork _ _)

theorem effects_feedsTo (n : Nat) (s : State) : Effects 56 s (s.feedsTo n) :=
  ((effects_settleTo _ s).andThen (Effects.forRange _ effects_feedStep _ _ _)).andThen (effects_mapWork _ _)

theorem effects_routesTo (n : Nat) (s : State) : Effects 56 s (s.routesTo n) :=
  ((effects_feedsTo _ s).andThen (Effects.forRange _ effects_routeStep _ _ _)).andThen (effects_mapWork _ _)

theorem effects_mixTo (n : Nat) (s : State) : Effects 56 s (s.mixTo n) :=
  ((effects_routesTo _ s).andThen (Effects.forRange _ effects_mixBus _ _ _)).andThen (effects_mapWork _ _)

theorem effects_handTo (n : Nat) (s : State) : Effects 56 s (s.handTo n) :=
  ((effects_mixTo _ s).andThen (Effects.forRange _ effects_handStep _ _ _)).andThen (effects_mapWork _ _)

theorem effects_inInstant (s : State) : Effects 56 s s.inInstant := by
  unfold State.inInstant
  split
  · exact .refl s
  · exact (effects_applyDue s).andThen (effects_instant _ _)

theorem effects_finishInstant (s : State) : Effects 56 s s.finishInstant := by
  unfold State.finishInstant
  split
  · exact (effects_handTo 2 s).andThen (effects_instantDone _ _)
  · exact .refl s

theorem effects_sampleInstant (s : State) : Effects 56 s s.sampleInstant := by
  unfold State.sampleInstant
  split
  · exact (effects_inInstant s).andThen (effects_finishInstant _)
  · exact .refl s

theorem effects_between (s : State) (t : TableId) : Effects 56 s (s.between t) := by
  cases t
  · exact .refl s
  · exact effects_finishInstant s

/-! ### The egress (R172 to R178) -/

theorem effects_choose {m : Nat} (s : State) (l : Link) : Effects m s (s.choose l) := by
  unfold State.choose
  dsimp only
  split
  · split
    · exact effects_setArb _ _ _ fun h => h
    · split
      · rename_i f q hq
        refine effects_setArb _ _ _ fun h => ⟨?_, h.2⟩
        have := h.1
        rw [hq] at this
        exact (Nat.le_succ _).trans this
      · split
        · unfold State.formReport
          refine ((Effects.one (.reportsLeave s 8)).andThen (effects_quiet rfl)).andThen (effects_setArb _ _ _ fun h => ?_)
          exact ⟨h.1, h.2.1, h.2.2.1, (Nat.sub_le _ _).trans h.2.2.2⟩
        · split
          · rename_i p q hq
            split
            · refine effects_setArb _ _ _ fun h => ⟨h.1, ?_, (Nat.sub_le _ _).trans h.2.2.1, h.2.2.2⟩
              have := h.2.1
              rw [hq] at this
              exact (Nat.le_succ _).trans this
            · exact .refl s
          · exact .refl s
  · exact .refl s

theorem effects_settle {m : Nat} (s : State) : Effects m s s.settle := (effects_choose s _).andThen (effects_choose _ _)

theorem effects_dropPass {m : Nat} (s : State) (w : Nat) : Effects m s (s.dropPass w) := effects_setWindow _ _ _

theorem effects_egressDown {m : Nat} (s : State) (l : Link) : Effects m s (s.egressDown l) := by
  unfold State.egressDown
  refine (effects_setArb s l _ fun _ => ?_).andThen (Effects.foldl _ (fun t _ => effects_dropPass t _) _ _)
  exact ⟨Nat.zero_le _, Nat.zero_le _, Nat.zero_le _, Nat.zero_le _⟩

theorem effects_forward {m : Nat} (s : State) (l : Link) (w : Nat) (fr : SampleFrame) : Effects m s (s.forward l w fr) := by
  unfold State.forward
  dsimp only
  split
  · rename_i h
    refine effects_setArb _ _ _ fun b => ⟨b.1, ?_, b.2.2⟩
    have : (s.arb l).passQueue.length < Config.passCapacity := by
      simp only [Bool.and_eq_true, decide_eq_true_eq] at h
      exact h.2
    rw [List.length_append]
    exact this
  · exact effects_dropPass _ _

/-! ### Arrivals and link interfaces (R57 to R62, R101 to R114, R140 to R147) -/

/-- The samples a frame brings, where they fit (R62). -/
theorem effects_writeFitting {m : Nat} (s : State) (n : Nat) (xs : List Sample) (h : (s.feed n).state ≠ .closed)
    (hf : xs.length ≤ (s.feed n).capacity - (s.feed n).fill) : Effects m s (s.writeSamples n xs) := by
  by_cases e : xs = []
  · rw [e]
    exact .refl s
  · have := List.length_pos_iff.2 e
    exact effects_writeSamples n xs s h (by omega)

theorem effects_takeFrame (s : State) (l : Link) (fr : SampleFrame) (n : Nat) (h : (s.feed n).state ≠ .closed) :
    Effects 56 s (s.takeFrame l fr n) := by
  unfold State.takeFrame
  dsimp only
  split
  · rename_i hf
    have hw := effects_writeFitting (m := 56) s n fr.samples h hf
    generalize s.writeSamples n fr.samples = u at hw ⊢
    exact (hw.andThen (effects_marks u n { u.feed n with
      binding := (u.feed n).binding.or (some (l, fr.stream)), expected := some ((fr.sequence + 1) % 65536) } rfl)).andThen
      (effects_arrivalFlow _ _)
  · exact ((effects_marks s n { s.feed n with
      overflowCount := add16 (s.feed n).overflowCount 1, expected := some ((fr.sequence + 1) % 65536) } rfl).andThen
      (effects_stickyEvent _ _ _ _ _)).andThen (effects_arrivalFlow _ _)

theorem effects_conceal (s : State) (fr : SampleFrame) (n d : Nat) (h : (s.feed n).state ≠ .closed) :
    Effects 56 s (s.conceal fr n d) ∧ ((s.conceal fr n d).feed n).state = (s.feed n).state := by
  unfold State.conceal
  dsimp only
  have hl : (List.replicate (min (d * fr.samples.length) ((s.feed n).capacity - (s.feed n).fill)) (0 : Sample)).length ≤
      (s.feed n).capacity - (s.feed n).fill := by
    rw [List.length_replicate]
    exact Nat.min_le_right _ _
  have hw := effects_writeFitting (m := 56) s n _ h hl
  have hs := (feed_writeSamples_same n
    (List.replicate (min (d * fr.samples.length) ((s.feed n).capacity - (s.feed n).fill)) (0 : Sample)) s).1
  generalize s.writeSamples n _ = u at hw hs ⊢
  refine ⟨(hw.andThen (effects_marks u n { u.feed n with gapCount := add16 (u.feed n).gapCount d } rfl)).andThen
    (effects_stickyEvent _ _ _ _ _), ?_⟩
  refine (congrArg Prod.fst (gist_stickyEvent _ n n _ _ _)).trans ?_
  rw [feed_setFeed_same]
  exact hs

theorem effects_resync (s : State) (n d : Nat) (h : (s.feed n).state ≠ .closed) :
    Effects 56 s (s.resync n d) ∧ ((s.resync n d).feed n).state ≠ .closed := by
  unfold State.resync
  dsimp only
  constructor
  · refine ((effects_setFeed s n _ ?_).andThen (effects_consumptionFlow _ _)).andThen (effects_plainEvent _ _ _ _)
    refine ⟨rfl, rfl, ⟨fun e => (nomatch e), fun e => absurd e h⟩, fun b => ⟨Nat.zero_le _, ?_, fun e => (nomatch e)⟩, fun b => ?_⟩
    · show (s.feed n).writeIndex = ((s.feed n).writeIndex + 0) % (s.feed n).capacity
      rw [b.2.1, Nat.add_zero, Nat.mod_mod]
    · refine ⟨(by decide : 0 < 16777216), (Int.add_zero _).symm, ?_, Int.natCast_nonneg _⟩
      exact Int.neg_nonpos_of_nonneg (Int.natCast_nonneg _)
  · rw [State.plainEvent, feed_event]
    have := congrArg Prod.fst (gist_consumptionFlow
      (s.setFeed n { s.feed n with
        state := .priming, readIndex := (s.feed n).writeIndex, fill := 0, history := zeroHistory, position := 0, correction := 0,
        integrator := 0, step := (s.feed n).nominal }) n n)
    intro e
    rw [show (_ : Feed).state = _ from this, feed_setFeed_same] at e
    exact (nomatch e)

theorem effects_arrive (s : State) (l : Link) (fr : SampleFrame) (n : Nat) : Effects 56 s (s.arrive l fr n) := by
  unfold State.arrive
  dsimp only
  split
  · exact effects_count _ _ _
  · rename_i ho
    split
    · exact (effects_count _ _ _).andThen (effects_stickyEvent _ _ _ _ _)
    · split
      · exact effects_count _ _ _
      · split
        · exact effects_stickyEvent _ _ _ _ _
        · unfold State.sequenceCheck
          split
          · exact effects_takeFrame _ _ _ _ ho
          · dsimp only
            split
            · exact effects_takeFrame _ _ _ _ ho
            · split
              · have h := effects_conceal s fr n (sequenceDistance fr.sequence ‹Nat›) ho
                exact h.1.andThen (effects_takeFrame _ _ _ _ (by rw [h.2]; exact ho))
              · split
                · have h := effects_resync s n (sequenceDistance fr.sequence ‹Nat›) ho
                  exact h.1.andThen (effects_takeFrame _ _ _ _ h.2)
                · exact (effects_marks s n { s.feed n with lateCount := add16 (s.feed n).lateCount 1 } rfl).andThen
                    (effects_stickyEvent _ _ _ _ _)

theorem effects_carryVerdict (s : State) (l : Link) (fr : SampleFrame) (v : Verdict) (n : Nat) :
    Effects 56 s (s.carryVerdict l fr v n) := by
  cases v
  · exact effects_arrive s l fr n
  · exact effects_count s l fun c => { c with discarded := inc32 c.discarded }

theorem effects_classify (s : State) (l : Link) (fr : SampleFrame) : Effects 56 s (s.classify l fr) := by
  unfold State.classify
  split
  · exact (effects_setWindow _ _ _).andThen (effects_forward _ _ _ _)
  · split
    · unfold State.admission
      split
      · split
        · exact (effects_setEntry _ _ _ _ (alike_withHits _ _)).andThen (effects_carryVerdict _ _ _ _ _)
        · exact .refl s
      · exact (effects_defaults s _).andThen (effects_carryVerdict _ _ _ _ _)
    · exact effects_count _ _ _
    · exact .refl s

theorem effects_linkSample (s : State) (l : Link) (p : Bool) : Effects 56 s (s.linkSample l p) := by
  unfold State.linkSample
  dsimp only
  split
  · refine ((effects_links s (s.links.set l { s.links.get l with
      up := !(s.links.get l).up, history := debounce (s.links.get l).history p })).andThen ?_).andThen (effects_plainEvent _ _ _ _)
    split
    · exact effects_egressDown _ _
    · exact .refl _
  · exact effects_links s _

theorem effects_enqueueControl (s : State) (l : Link) (cs : List Instr) : Effects 56 s (s.enqueueControl l cs) := by
  unfold State.enqueueControl
  dsimp only
  split
  · exact effects_count _ _ _
  · split
    · exact (effects_count _ _ _).andThen (effects_plainEvent _ _ _ _)
    · rename_i h
      refine .one (.fifo s l _ fun _ => ?_)
      rw [List.length_append]
      exact Nat.lt_of_not_le h

theorem credit_bounded (a : Arbiter) (c m n : Nat) (hn : n ≤ 255) (h : a.Bounded) : (a.credit c m n).Bounded := by
  have hf : ∀ x, (if m = 1 then min (x + n) 255 else n) ≤ 255 := by
    intro x
    split
    · exact Nat.min_le_right _ _
    · exact hn
  unfold Arbiter.credit
  dsimp only
  split
  · exact ⟨h.1, h.2.1, hf _, h.2.2.2⟩
  · exact ⟨h.1, h.2.1, h.2.2.1, hf _⟩

theorem readCreditFrame_count {bs : List Byte} {c m n : Nat} (h : readCreditFrame bs = some (c, m, n)) : n ≤ 255 := by
  unfold readCreditFrame at h
  split at h
  · split at h
    · rename_i b _
      simp only [Option.some.injEq, Prod.mk.injEq] at h
      have := b.isLt
      omega
    · cases h
  · cases h

theorem effects_takeBody (s : State) (l : Link) (bs : List Byte) : Effects 56 s (s.takeBody l bs) := by
  unfold State.takeBody
  split
  · split
    · exact (effects_count _ _ _).andThen (effects_classify _ _ _)
    · exact effects_count _ _ _
  · split
    · exact (effects_count _ _ _).andThen (effects_enqueueControl _ _ _)
    · exact (effects_count _ _ _).andThen (effects_plainEvent _ _ _ _)
  · split
    · rename_i h
      exact (effects_count _ _ _).andThen (effects_setArb _ _ _ (credit_bounded _ _ _ _ (readCreditFrame_count h)))
    · exact effects_count _ _ _
  · exact effects_count _ _ _

theorem effects_frameArrives (s : State) (l : Link) (bs : List Byte) : Effects 56 s (s.frameArrives l bs) := by
  unfold State.frameArrives
  split
  · exact .refl s
  · split
    · exact effects_count _ _ _
    · dsimp only
      split
      · exact effects_takeBody _ _ _
      · exact effects_count _ _ _

end Sys2Proof.Machine
end

