-- ==== Sys2Proof/Laws/Kept.lean ====
section
/-! SUPPORT. What the work of an instant leaves as it is beside the settings: house time, windows, default rules, the report frames' sequence and, after the first stage, the cue queue. -/

namespace Sys2Proof.Machine

def State.kept (s : State) : Time × List (Nat × Window) × PerLink DefaultRule × Nat × List Cue :=
  (s.houseTime, s.windows, s.defaults, s.reportSequence, s.cues)

/-! ### Single updates -/

@[simp] theorem kept_setBus (s : State) (b : Nat) (x : Bus) : (s.setBus b x).kept = s.kept := rfl
@[simp] theorem kept_setKernel (s : State) (k : Nat) (x : KernelSet) : (s.setKernel k x).kept = s.kept := rfl
@[simp] theorem kept_setFeed (s : State) (f : Nat) (x : Feed) : (s.setFeed f x).kept = s.kept := rfl
@[simp] theorem kept_setOwner (s : State) (p : Nat) (x : Owner) : (s.setOwner p x).kept = s.kept := rfl
@[simp] theorem kept_setSlot (s : State) (k : Nat) (x : Slot) : (s.setSlot k x).kept = s.kept := rfl
@[simp] theorem kept_setEntry (s : State) (t : TableId) (i : Nat) (x : Slot) : (s.setEntry t i x).kept = s.kept := rfl
@[simp] theorem kept_setWord (s : State) (a : Nat) (x : Sample) : (s.setWord a x).kept = s.kept := rfl
@[simp] theorem kept_setArb (s : State) (l : Link) (a : Arbiter) : (s.setArb l a).kept = s.kept := rfl
@[simp] theorem kept_count (s : State) (l : Link) (f : Counters → Counters) : (s.count l f).kept = s.kept := rfl
@[simp] theorem kept_pushReport (s : State) (r : Report) : (s.pushReport r).kept = s.kept := rfl
@[simp] theorem kept_clearWords (s : State) (ps : List Nat) (d : Nat) : (s.clearWords ps d).kept = s.kept := rfl
@[simp] theorem kept_putOutput (s : State) (n : Nat) (y : Sample) : (s.putOutput n y).kept = s.kept := by
  unfold State.putOutput State.kept; split <;> rfl
@[simp] theorem kept_putFinished (s : State) (n : Nat) (y : Sample) : (s.putFinished n y).kept = s.kept := by
  unfold State.putFinished State.kept; split <;> rfl

/-- A function that leaves the kept leaves them over a whole list. -/
theorem kept_foldl {β : Type} (f : State → β → State) (h : ∀ s b, (f s b).kept = s.kept) :
    ∀ (l : List β) (s : State), (l.foldl f s).kept = s.kept
  | [], _ => rfl
  | b :: l, s => by rw [List.foldl_cons, kept_foldl f h l, h]

@[simp] theorem kept_forRange (f : State → Nat → State) (h : ∀ s b, (f s b).kept = s.kept) (a n : Nat) (s : State) :
    (forRange f a n s).kept = s.kept := kept_foldl f h _ _

/-! ### Reports and flow frames -/

@[simp] theorem kept_offer (s : State) (r : Report) : (s.offer r).kept = s.kept := by
  unfold State.offer; split <;> rfl

@[simp] theorem kept_event (s : State) (k : EventKind) (tag : Nat) (st : Status) (x : Subject) (ws : List Word) :
    (s.event k tag st x ws).kept = s.kept := kept_offer _ _

@[simp] theorem kept_plainEvent (s : State) (k : EventKind) (x : Subject) (ws : List Word) :
    (s.plainEvent k x ws).kept = s.kept := kept_offer _ _

@[simp] theorem kept_reply (s : State) (a : Ask) (st : Status) (ws : List Word) : (s.reply a st ws).kept = s.kept := by
  unfold State.reply; split <;> rfl

@[simp] theorem kept_refuse (s : State) (a : Ask) (st : Status) (ws : List Word) :
    (s.refuse a st ws).kept = s.kept := by
  unfold State.refuse; split <;> simp

@[simp] theorem kept_stickyEvent (s : State) (n : Nat) (k : Sticky) (e : EventKind) (ws : List Word) :
    (s.stickyEvent n k e ws).kept = s.kept := by
  unfold State.stickyEvent; split <;> simp

@[simp] theorem kept_handFlow (s : State) (l : Link) (f : FlowFrame) : (s.handFlow l f).kept = s.kept := by
  unfold State.handFlow; dsimp only; repeat' split
  all_goals rfl

@[simp] theorem kept_sendFlow (s : State) (n : Nat) (p : Bool) : (s.sendFlow n p).kept = s.kept := by
  unfold State.sendFlow; dsimp only; split <;> simp

/-! ### Pages, buffers and feeds -/

@[simp] theorem kept_returnPages (s : State) (ps : List Nat) : (s.returnPages ps).kept = s.kept := by
  unfold State.returnPages; refine (kept_foldl _ ?_ _ _).trans rfl; exact fun _ _ => rfl

@[simp] theorem kept_takePages (s : State) (o : Owner) (n : Nat) : (s.takePages o n).kept = s.kept := by
  unfold State.takePages; refine (kept_foldl _ ?_ _ _).trans rfl; exact fun _ _ => rfl

@[simp] theorem kept_clearLine (s : State) (b : Nat) : (s.clearLine b).kept = s.kept := rfl

@[simp] theorem kept_writeSample (s : State) (n : Nat) (x : Sample) : (s.writeSample n x).kept = s.kept := rfl

@[simp] theorem kept_writeSamples (s : State) (n : Nat) (xs : List Sample) : (s.writeSamples n xs).kept = s.kept := by
  unfold State.writeSamples; refine kept_foldl _ ?_ _ _; exact fun _ _ => rfl

@[simp] theorem kept_consumeSamples (n : Nat) : ∀ (k : Nat) (s : State), (s.consumeSamples n k).kept = s.kept
  | 0, _ => rfl
  | k + 1, s => by rw [State.consumeSamples, kept_consumeSamples n k]; rfl

@[simp] theorem kept_pushZeros (n : Nat) : ∀ (k : Nat) (s : State), (s.pushZeros n k).kept = s.kept
  | 0, _ => rfl
  | k + 1, s => by rw [State.pushZeros, kept_pushZeros n k]; rfl

@[simp] theorem kept_arrivalFlow (s : State) (n : Nat) : (s.arrivalFlow n).kept = s.kept := by
  unfold State.arrivalFlow; dsimp only; repeat' split
  all_goals simp

@[simp] theorem kept_consumptionFlow (s : State) (n : Nat) : (s.consumptionFlow n).kept = s.kept := by
  unfold State.consumptionFlow; dsimp only; repeat' split
  all_goals simp

@[simp] theorem kept_closeFeed (s : State) (n : Nat) : (s.closeFeed n).kept = s.kept := by
  simp [State.closeFeed, State.lowerInUse]

@[simp] theorem kept_stateEvent (s : State) (n : Nat) (k : Sticky) (st : FeedState) :
    (s.stateEvent n k st).kept = s.kept := kept_stickyEvent _ _ _ _ _

@[simp] theorem kept_drainFeed (s : State) (n : Nat) : (s.drainFeed n).kept = s.kept := by
  unfold State.drainFeed; dsimp only; repeat' split
  all_goals simp

@[simp] theorem kept_drainEvent (s : State) (n : Nat) (st : FeedState) : (s.drainEvent n st).kept = s.kept := by
  unfold State.drainEvent; split <;> simp

@[simp] theorem kept_startEval (s : State) (n : Nat) : (s.startEval n).kept = s.kept := by
  unfold State.startEval; dsimp only; repeat' split
  all_goals simp

@[simp] theorem kept_feedClip (s : State) (n : Nat) (y : Int) : (s.feedClip n y).kept = s.kept := by
  simp [State.feedClip]

@[simp] theorem kept_advanceFeed (s : State) (n : Nat) : (s.advanceFeed n).kept = s.kept := by
  unfold State.advanceFeed; simp only [kept_pushZeros]; split <;> simp

@[simp] theorem kept_outputFeed (s : State) (n : Nat) : (s.outputFeed n).kept = s.kept := by
  unfold State.outputFeed; simp only [kept_putOutput]; split <;> simp

@[simp] theorem kept_starve (s : State) (n m : Nat) : (s.starve n m).kept = s.kept := by simp [State.starve]

@[simp] theorem kept_endDrain (s : State) (n : Nat) : (s.endDrain n).kept = s.kept := by simp [State.endDrain]

@[simp] theorem kept_convertFeed (s : State) (n : Nat) : (s.convertFeed n).kept = s.kept := by
  unfold State.convertFeed; dsimp only; repeat' split
  all_goals simp

@[simp] theorem kept_servoIfDue (s : State) (n : Nat) : (s.servoIfDue n).kept = s.kept := by
  unfold State.servoIfDue; split <;> simp

@[simp] theorem kept_feedStep (s : State) (n : Nat) : (s.feedStep n).kept = s.kept := by
  unfold State.feedStep; dsimp only; repeat' split
  all_goals simp

/-! ### Cues and the instant -/

@[simp] theorem kept_applyRouteGain (s : State) (i t n : Nat) : (s.applyRouteGain i t n).kept = s.kept := by
  unfold State.applyRouteGain; split <;> simp

@[simp] theorem kept_applyCue (s : State) (c : Cue) : (s.applyCue c).kept = s.kept := by
  unfold State.applyCue State.targetGone
  repeat' split
  all_goals first | rfl | simp


@[simp] theorem kept_settleBus (s : State) (b : Nat) : (s.settleBus b).kept = s.kept := by
  unfold State.settleBus; dsimp only; repeat' split
  all_goals simp

@[simp] theorem kept_routeStep (s : State) (i : Nat) : (s.routeStep i).kept = s.kept := by
  unfold State.routeStep; split
  · rfl
  · rfl

@[simp] theorem kept_busClip (s : State) (b : Nat) (r : Int) : (s.busClip b r).kept = s.kept := by
  unfold State.busClip; simp only [kept_setBus]; split <;> simp

@[simp] theorem kept_delayLine (s : State) (b : Nat) (v : Sample) : (s.delayLine b v).1.kept = s.kept := by
  unfold State.delayLine; dsimp only; split <;> rfl

@[simp] theorem kept_mixBus (s : State) (b : Nat) : (s.mixBus b).kept = s.kept := by
  unfold State.mixBus
  split
  · dsimp only
    split
    · simp only [kept_putFinished, kept_delayLine]
      split <;> simp
    · rfl
  · rfl

@[simp] theorem kept_handLink (s : State) (l : Link) (x : List (Nat × Sample)) : (s.handLink l x).kept = s.kept := by
  unfold State.handLink; dsimp only; repeat' split
  all_goals rfl

@[simp] theorem kept_handStep (s : State) (i : Nat) : (s.handStep i).kept = s.kept := by
  unfold State.handStep; split <;> simp


@[simp] theorem kept_mapWork (s : State) (f : InstantWork → InstantWork) : (s.mapWork f).kept = s.kept := rfl
@[simp] theorem kept_settleTo (n : Nat) (s : State) : (s.settleTo n).kept = s.kept := by simp [State.settleTo]
@[simp] theorem kept_feedsTo (n : Nat) (s : State) : (s.feedsTo n).kept = s.kept := by simp [State.feedsTo]
@[simp] theorem kept_routesTo (n : Nat) (s : State) : (s.routesTo n).kept = s.kept := by simp [State.routesTo]
@[simp] theorem kept_mixTo (n : Nat) (s : State) : (s.mixTo n).kept = s.kept := by simp [State.mixTo]
@[simp] theorem kept_handTo (n : Nat) (s : State) : (s.handTo n).kept = s.kept := by simp [State.handTo]

end Sys2Proof.Machine
end

