-- ==== Sys2Proof/Laws/Memory.lean ====
section
/-! SUPPORT. Laws of sample memory: every operation that writes it keeps its canonical form (what a read finds after each is in Laws/State.lean and Laws/Pages.lean). -/

namespace Sys2Proof.Machine

theorem wf_setWord {s : State} (a : Nat) (x : Sample) (h : Memory.wf s.memory) : Memory.wf (s.setWord a x).memory :=
  Cells.wf_cellSet a x h

theorem wf_clearWords {s : State} (pages : List Nat) (d : Nat) (h : Memory.wf s.memory) :
    Memory.wf (s.clearWords pages d).memory :=
  Cells.wf_filter _ h

theorem wf_clearLine {s : State} (b : Nat) (h : Memory.wf s.memory) : Memory.wf (s.clearLine b).memory :=
  wf_clearWords _ _ h

theorem wf_writeSample {s : State} (n : Nat) (x : Sample) (h : Memory.wf s.memory) : Memory.wf (s.writeSample n x).memory :=
  wf_setWord _ _ h

theorem wf_writeSamples (n : Nat) : ∀ (xs : List Sample) {s : State}, Memory.wf s.memory → Memory.wf (s.writeSamples n xs).memory
  | [], _, h => h
  | x :: xs, s, h => wf_writeSamples n xs (s := s.writeSample n x) (wf_writeSample n x h)

theorem wf_delayLine {s : State} (b : Nat) (v : Sample) (h : Memory.wf s.memory) : Memory.wf (s.delayLine b v).1.memory := by
  unfold State.delayLine
  dsimp only
  split
  · exact h
  · exact wf_setWord _ _ h

theorem wf_reset : Memory.wf State.reset.memory := Cells.wf_nil 0

end Sys2Proof.Machine
end

