-- ==== Sys2Proof/Laws/PerInstr.lean ====
section
/-! SUPPORT. A fact about every command as written: the rows that are no command of a control frame have no code and no operand
bytes; every other has a code of file 08's table, or is the row for codes outside it; and no operand area is longer than the 195
bytes of four kernel rows (R152, R164). -/

namespace Sys2Proof.Laws.Framed

/-- What is said of each command. -/
def Statement (i : Instr) : Prop :=
  (i.hdr? = none → i.code = 0 ∧ i.operands = []) ∧
    (∀ h, i.hdr? = some h → knownCode i.code = true ∨ i = .unknownCommand h i.code) ∧
    (i.operandsFit = true → i.operands.length ≤ 195)

/-- The operand area of LOAD KERNEL ROWS: three bytes, and three for each coefficient. -/
theorem length_coefficients (cs : List Int) : (cs.flatMap bytes3s).length = 3 * cs.length := by
  induction cs with
  | nil => rfl
  | cons c cs ih => simp only [List.flatMap_cons, List.length_append, ih, List.length_cons]; simp [bytes3s, bytes3, bytes2]; omega

theorem rstnLow : Statement (.rstnLow) :=
  ⟨fun _ => ⟨rfl, rfl⟩, fun _ hh => (Option.some_ne_none _ hh.symm).elim, fun _ => Nat.le_of_ble_eq_true rfl⟩

theorem rstnRelease : Statement (.rstnRelease) :=
  ⟨fun _ => ⟨rfl, rfl⟩, fun _ hh => (Option.some_ne_none _ hh.symm).elim, fun _ => Nat.le_of_ble_eq_true rfl⟩

theorem powerUp : Statement (.powerUp) :=
  ⟨fun _ => ⟨rfl, rfl⟩, fun _ hh => (Option.some_ne_none _ hh.symm).elim, fun _ => Nat.le_of_ble_eq_true rfl⟩

theorem startingEnd : Statement (.startingEnd) :=
  ⟨fun _ => ⟨rfl, rfl⟩, fun _ hh => (Option.some_ne_none _ hh.symm).elim, fun _ => Nat.le_of_ble_eq_true rfl⟩

theorem linkSample (link : Link) (present : Bool) : Statement (.linkSample link present) :=
  ⟨fun _ => ⟨rfl, rfl⟩, fun _ hh => (Option.some_ne_none _ hh.symm).elim, fun _ => Nat.le_of_ble_eq_true rfl⟩

theorem frameArrival (link : Link) (bytes : List Byte) : Statement (.frameArrival link bytes) :=
  ⟨fun _ => ⟨rfl, rfl⟩, fun _ hh => (Option.some_ne_none _ hh.symm).elim, fun _ => Nat.le_of_ble_eq_true rfl⟩

theorem sampleInstant : Statement (.sampleInstant) :=
  ⟨fun _ => ⟨rfl, rfl⟩, fun _ hh => (Option.some_ne_none _ hh.symm).elim, fun _ => Nat.le_of_ble_eq_true rfl⟩

theorem cueApply : Statement (.cueApply) :=
  ⟨fun _ => ⟨rfl, rfl⟩, fun _ hh => (Option.some_ne_none _ hh.symm).elim, fun _ => Nat.le_of_ble_eq_true rfl⟩

theorem busSettle (bus : Nat) : Statement (.busSettle bus) :=
  ⟨fun _ => ⟨rfl, rfl⟩, fun _ hh => (Option.some_ne_none _ hh.symm).elim, fun _ => Nat.le_of_ble_eq_true rfl⟩

theorem feedStart (feed : Nat) : Statement (.feedStart feed) :=
  ⟨fun _ => ⟨rfl, rfl⟩, fun _ hh => (Option.some_ne_none _ hh.symm).elim, fun _ => Nat.le_of_ble_eq_true rfl⟩

theorem servoRun (feed : Nat) : Statement (.servoRun feed) :=
  ⟨fun _ => ⟨rfl, rfl⟩, fun _ hh => (Option.some_ne_none _ hh.symm).elim, fun _ => Nat.le_of_ble_eq_true rfl⟩

theorem drainEnd (feed : Nat) : Statement (.drainEnd feed) :=
  ⟨fun _ => ⟨rfl, rfl⟩, fun _ hh => (Option.some_ne_none _ hh.symm).elim, fun _ => Nat.le_of_ble_eq_true rfl⟩

theorem rampEnd (index : Nat) : Statement (.rampEnd index) :=
  ⟨fun _ => ⟨rfl, rfl⟩, fun _ hh => (Option.some_ne_none _ hh.symm).elim, fun _ => Nat.le_of_ble_eq_true rfl⟩

theorem busFrameComplete (link : Link) : Statement (.busFrameComplete link) :=
  ⟨fun _ => ⟨rfl, rfl⟩, fun _ hh => (Option.some_ne_none _ hh.symm).elim, fun _ => Nat.le_of_ble_eq_true rfl⟩

theorem frameSent (link : Link) : Statement (.frameSent link) :=
  ⟨fun _ => ⟨rfl, rfl⟩, fun _ hh => (Option.some_ne_none _ hh.symm).elim, fun _ => Nat.le_of_ble_eq_true rfl⟩

theorem waitingCommandTaken (link : Link) : Statement (.waitingCommandTaken link) :=
  ⟨fun _ => ⟨rfl, rfl⟩, fun _ hh => (Option.some_ne_none _ hh.symm).elim, fun _ => Nat.le_of_ble_eq_true rfl⟩

theorem moveStep : Statement (.moveStep) :=
  ⟨fun _ => ⟨rfl, rfl⟩, fun _ hh => (Option.some_ne_none _ hh.symm).elim, fun _ => Nat.le_of_ble_eq_true rfl⟩

theorem fillStep : Statement (.fillStep) :=
  ⟨fun _ => ⟨rfl, rfl⟩, fun _ hh => (Option.some_ne_none _ hh.symm).elim, fun _ => Nat.le_of_ble_eq_true rfl⟩

theorem scanStep : Statement (.scanStep) :=
  ⟨fun _ => ⟨rfl, rfl⟩, fun _ hh => (Option.some_ne_none _ hh.symm).elim, fun _ => Nat.le_of_ble_eq_true rfl⟩

theorem clearHitsStep : Statement (.clearHitsStep) :=
  ⟨fun _ => ⟨rfl, rfl⟩, fun _ hh => (Option.some_ne_none _ hh.symm).elim, fun _ => Nat.le_of_ble_eq_true rfl⟩

theorem unknownCommand (h : Hdr) (code : Nat) : Statement (.unknownCommand h code) := by
  refine ⟨fun h0 => (Option.some_ne_none h h0).elim, fun g hg => Or.inr ?_, fun _ => Nat.le_of_ble_eq_true rfl⟩
  exact congrArg (Instr.unknownCommand · code) (Option.some.inj hg)

theorem startEngine (h : Hdr) : Statement (.startEngine h) :=
  ⟨fun h0 => (Option.some_ne_none h h0).elim, fun _ _ => Or.inl rfl, fun _ => Nat.le_of_ble_eq_true rfl⟩

theorem stopEngine (h : Hdr) : Statement (.stopEngine h) :=
  ⟨fun h0 => (Option.some_ne_none h h0).elim, fun _ _ => Or.inl rfl, fun _ => Nat.le_of_ble_eq_true rfl⟩

theorem resetDevice (h : Hdr) : Statement (.resetDevice h) :=
  ⟨fun h0 => (Option.some_ne_none h h0).elim, fun _ _ => Or.inl rfl, fun _ => Nat.le_of_ble_eq_true rfl⟩

theorem setHouseRate (h : Hdr) (rate : Nat) : Statement (.setHouseRate h rate) :=
  ⟨fun h0 => (Option.some_ne_none h h0).elim, fun _ _ => Or.inl rfl, fun _ => Nat.le_of_ble_eq_true rfl⟩

theorem setHouseTime (h : Hdr) (time : Nat) : Statement (.setHouseTime h time) :=
  ⟨fun h0 => (Option.some_ne_none h h0).elim, fun _ _ => Or.inl rfl, fun _ => Nat.le_of_ble_eq_true rfl⟩

theorem setLinkFraming (h : Hdr) (link k : Nat) : Statement (.setLinkFraming h link k) :=
  ⟨fun h0 => (Option.some_ne_none h h0).elim, fun _ _ => Or.inl rfl, fun _ => Nat.le_of_ble_eq_true rfl⟩

theorem readTime (h : Hdr) : Statement (.readTime h) :=
  ⟨fun h0 => (Option.some_ne_none h h0).elim, fun _ _ => Or.inl rfl, fun _ => Nat.le_of_ble_eq_true rfl⟩

theorem setRouteGain (h : Hdr) (index target length : Nat) : Statement (.setRouteGain h index target length) :=
  ⟨fun h0 => (Option.some_ne_none h h0).elim, fun _ _ => Or.inl rfl, fun _ => Nat.le_of_ble_eq_true rfl⟩

theorem enableBus (h : Hdr) (bus : Nat) : Statement (.enableBus h bus) :=
  ⟨fun h0 => (Option.some_ne_none h h0).elim, fun _ _ => Or.inl rfl, fun _ => Nat.le_of_ble_eq_true rfl⟩

theorem disableBus (h : Hdr) (bus : Nat) : Statement (.disableBus h bus) :=
  ⟨fun h0 => (Option.some_ne_none h h0).elim, fun _ _ => Or.inl rfl, fun _ => Nat.le_of_ble_eq_true rfl⟩

theorem setBusTrim (h : Hdr) (bus trim : Nat) : Statement (.setBusTrim h bus trim) :=
  ⟨fun h0 => (Option.some_ne_none h h0).elim, fun _ _ => Or.inl rfl, fun _ => Nat.le_of_ble_eq_true rfl⟩

theorem setBusMute (h : Hdr) (bus mute : Nat) : Statement (.setBusMute h bus mute) :=
  ⟨fun h0 => (Option.some_ne_none h h0).elim, fun _ _ => Or.inl rfl, fun _ => Nat.le_of_ble_eq_true rfl⟩

theorem setBusMode (h : Hdr) (bus mode solo : Nat) : Statement (.setBusMode h bus mode solo) :=
  ⟨fun h0 => (Option.some_ne_none h h0).elim, fun _ _ => Or.inl rfl, fun _ => Nat.le_of_ble_eq_true rfl⟩

theorem setBusDelay (h : Hdr) (bus delay : Nat) : Statement (.setBusDelay h bus delay) :=
  ⟨fun h0 => (Option.some_ne_none h h0).elim, fun _ _ => Or.inl rfl, fun _ => Nat.le_of_ble_eq_true rfl⟩

theorem setBusLink (h : Hdr) (bus link : Nat) : Statement (.setBusLink h bus link) :=
  ⟨fun h0 => (Option.some_ne_none h h0).elim, fun _ _ => Or.inl rfl, fun _ => Nat.le_of_ble_eq_true rfl⟩

theorem readBus (h : Hdr) (bus : Nat) : Statement (.readBus h bus) :=
  ⟨fun h0 => (Option.some_ne_none h h0).elim, fun _ _ => Or.inl rfl, fun _ => Nat.le_of_ble_eq_true rfl⟩

theorem ackBusEvents (h : Hdr) (bus clear : Nat) : Statement (.ackBusEvents h bus clear) :=
  ⟨fun h0 => (Option.some_ne_none h h0).elim, fun _ _ => Or.inl rfl, fun _ => Nat.le_of_ble_eq_true rfl⟩

theorem loadKernelRows (h : Hdr) (set first count : Nat) (coefs : List Int) : Statement (.loadKernelRows h set first count coefs) := by
  refine ⟨fun h0 => (Option.some_ne_none h h0).elim, fun _ _ => Or.inl rfl, fun hf => ?_⟩
  have : coefs.length ≤ 64 := by
    simp only [Instr.operandsFit, Bool.and_eq_true, Bool.or_eq_true, beq_iff_eq] at hf
    omega
  simp only [Instr.operands, List.length_append, length_coefficients]
  simp [bytes1]
  omega

theorem validateKernelSet (h : Hdr) (set : Nat) : Statement (.validateKernelSet h set) :=
  ⟨fun h0 => (Option.some_ne_none h h0).elim, fun _ _ => Or.inl rfl, fun _ => Nat.le_of_ble_eq_true rfl⟩

theorem openFeed (h : Hdr) (feed rate set pages target autoFlow returnLink : Nat) (start : Option Nat) : Statement (.openFeed h feed rate set pages target autoFlow returnLink start) :=
  ⟨fun h0 => (Option.some_ne_none h h0).elim, fun _ _ => Or.inl rfl, fun _ => by cases start <;> exact Nat.le_of_ble_eq_true rfl⟩

theorem closeFeed (h : Hdr) (feed mode : Nat) : Statement (.closeFeed h feed mode) :=
  ⟨fun h0 => (Option.some_ne_none h h0).elim, fun _ _ => Or.inl rfl, fun _ => Nat.le_of_ble_eq_true rfl⟩

theorem retuneFeed (h : Hdr) (feed rate : Nat) (set : Option Nat) : Statement (.retuneFeed h feed rate set) :=
  ⟨fun h0 => (Option.some_ne_none h h0).elim, fun _ _ => Or.inl rfl, fun _ => by cases set <;> exact Nat.le_of_ble_eq_true rfl⟩

theorem setFeedTarget (h : Hdr) (feed target : Nat) : Statement (.setFeedTarget h feed target) :=
  ⟨fun h0 => (Option.some_ne_none h h0).elim, fun _ _ => Or.inl rfl, fun _ => Nat.le_of_ble_eq_true rfl⟩

theorem holdFeed (h : Hdr) (feed : Nat) : Statement (.holdFeed h feed) :=
  ⟨fun h0 => (Option.some_ne_none h h0).elim, fun _ _ => Or.inl rfl, fun _ => Nat.le_of_ble_eq_true rfl⟩

theorem releaseFeed (h : Hdr) (feed : Nat) : Statement (.releaseFeed h feed) :=
  ⟨fun h0 => (Option.some_ne_none h h0).elim, fun _ _ => Or.inl rfl, fun _ => Nat.le_of_ble_eq_true rfl⟩

theorem readFeed (h : Hdr) (feed part : Nat) : Statement (.readFeed h feed part) :=
  ⟨fun h0 => (Option.some_ne_none h h0).elim, fun _ _ => Or.inl rfl, fun _ => Nat.le_of_ble_eq_true rfl⟩

theorem ackFeedEvents (h : Hdr) (feed clear : Nat) : Statement (.ackFeedEvents h feed clear) :=
  ⟨fun h0 => (Option.some_ne_none h h0).elim, fun _ _ => Or.inl rfl, fun _ => Nat.le_of_ble_eq_true rfl⟩

theorem readPool (h : Hdr) (part : Nat) (number : Option Nat) : Statement (.readPool h part number) :=
  ⟨fun h0 => (Option.some_ne_none h h0).elim, fun _ _ => Or.inl rfl, fun _ => by cases number <;> exact Nat.le_of_ble_eq_true rfl⟩

theorem cancelCues (h : Hdr) (tag : Nat) : Statement (.cancelCues h tag) :=
  ⟨fun h0 => (Option.some_ne_none h h0).elim, fun _ _ => Or.inl rfl, fun _ => Nat.le_of_ble_eq_true rfl⟩

theorem readCues (h : Hdr) : Statement (.readCues h) :=
  ⟨fun h0 => (Option.some_ne_none h h0).elim, fun _ _ => Or.inl rfl, fun _ => Nat.le_of_ble_eq_true rfl⟩

theorem setLateTolerance (h : Hdr) (tolerance : Nat) : Statement (.setLateTolerance h tolerance) :=
  ⟨fun h0 => (Option.some_ne_none h h0).elim, fun _ _ => Or.inl rfl, fun _ => Nat.le_of_ble_eq_true rfl⟩

theorem setWindow (h : Hdr) (window enabled filter base mask translate destination clear : Nat) : Statement (.setWindow h window enabled filter base mask translate destination clear) :=
  ⟨fun h0 => (Option.some_ne_none h h0).elim, fun _ _ => Or.inl rfl, fun _ => Nat.le_of_ble_eq_true rfl⟩

theorem readWindow (h : Hdr) (window clear : Nat) : Statement (.readWindow h window clear) :=
  ⟨fun h0 => (Option.some_ne_none h h0).elim, fun _ _ => Or.inl rfl, fun _ => Nat.le_of_ble_eq_true rfl⟩

theorem setDefaultRule (h : Hdr) (link verdict feed clear : Nat) : Statement (.setDefaultRule h link verdict feed clear) :=
  ⟨fun h0 => (Option.some_ne_none h h0).elim, fun _ _ => Or.inl rfl, fun _ => Nat.le_of_ble_eq_true rfl⟩

theorem readDefaultRule (h : Hdr) (link clear : Nat) : Statement (.readDefaultRule h link clear) :=
  ⟨fun h0 => (Option.some_ne_none h h0).elim, fun _ _ => Or.inl rfl, fun _ => Nat.le_of_ble_eq_true rfl⟩

theorem assignBank (h : Hdr) (bank table : Nat) : Statement (.assignBank h bank table) :=
  ⟨fun h0 => (Option.some_ne_none h h0).elim, fun _ _ => Or.inl rfl, fun _ => Nat.le_of_ble_eq_true rfl⟩

theorem stageRule (h : Hdr) (kind state : Nat) (key : NarrowKey) (wide : Option WideKey) (verdict feed : Nat) : Statement (.stageRule h kind state key wide verdict feed) :=
  ⟨fun h0 => (Option.some_ne_none h h0).elim, fun _ _ => Or.inl rfl, fun _ => by cases wide <;> exact Nat.le_of_ble_eq_true rfl⟩

theorem stageRoute (h : Hdr) (feed bus polarity gain : Nat) : Statement (.stageRoute h feed bus polarity gain) :=
  ⟨fun h0 => (Option.some_ne_none h h0).elim, fun _ _ => Or.inl rfl, fun _ => Nat.le_of_ble_eq_true rfl⟩

theorem clearStaging (h : Hdr) : Statement (.clearStaging h) :=
  ⟨fun h0 => (Option.some_ne_none h h0).elim, fun _ _ => Or.inl rfl, fun _ => Nat.le_of_ble_eq_true rfl⟩

theorem writeEntry (h : Hdr) (table index : Nat) : Statement (.writeEntry h table index) :=
  ⟨fun h0 => (Option.some_ne_none h h0).elim, fun _ _ => Or.inl rfl, fun _ => Nat.le_of_ble_eq_true rfl⟩

theorem readEntry (h : Hdr) (table index : Nat) : Statement (.readEntry h table index) :=
  ⟨fun h0 => (Option.some_ne_none h h0).elim, fun _ _ => Or.inl rfl, fun _ => Nat.le_of_ble_eq_true rfl⟩

theorem enableRule (h : Hdr) (index : Nat) : Statement (.enableRule h index) :=
  ⟨fun h0 => (Option.some_ne_none h h0).elim, fun _ _ => Or.inl rfl, fun _ => Nat.le_of_ble_eq_true rfl⟩

theorem disableRule (h : Hdr) (index : Nat) : Statement (.disableRule h index) :=
  ⟨fun h0 => (Option.some_ne_none h h0).elim, fun _ _ => Or.inl rfl, fun _ => Nat.le_of_ble_eq_true rfl⟩

theorem move (h : Hdr) (table source dest count : Nat) : Statement (.move h table source dest count) :=
  ⟨fun h0 => (Option.some_ne_none h h0).elim, fun _ _ => Or.inl rfl, fun _ => Nat.le_of_ble_eq_true rfl⟩

theorem fill (h : Hdr) (table first count : Nat) : Statement (.fill h table first count) :=
  ⟨fun h0 => (Option.some_ne_none h h0).elim, fun _ _ => Or.inl rfl, fun _ => Nat.le_of_ble_eq_true rfl⟩

theorem scan (h : Hdr) (table first count selector mode : Nat) : Statement (.scan h table first count selector mode) :=
  ⟨fun h0 => (Option.some_ne_none h h0).elim, fun _ _ => Or.inl rfl, fun _ => Nat.le_of_ble_eq_true rfl⟩

theorem clearHits (h : Hdr) (first count : Nat) : Statement (.clearHits h first count) :=
  ⟨fun h0 => (Option.some_ne_none h h0).elim, fun _ _ => Or.inl rfl, fun _ => Nat.le_of_ble_eq_true rfl⟩

theorem suspendBlock (h : Hdr) : Statement (.suspendBlock h) :=
  ⟨fun h0 => (Option.some_ne_none h h0).elim, fun _ _ => Or.inl rfl, fun _ => Nat.le_of_ble_eq_true rfl⟩

theorem resumeBlock (h : Hdr) : Statement (.resumeBlock h) :=
  ⟨fun h0 => (Option.some_ne_none h h0).elim, fun _ _ => Or.inl rfl, fun _ => Nat.le_of_ble_eq_true rfl⟩

theorem abandonBlock (h : Hdr) : Statement (.abandonBlock h) :=
  ⟨fun h0 => (Option.some_ne_none h h0).elim, fun _ _ => Or.inl rfl, fun _ => Nat.le_of_ble_eq_true rfl⟩

theorem setLinkRole (h : Hdr) (link role : Nat) : Statement (.setLinkRole h link role) :=
  ⟨fun h0 => (Option.some_ne_none h h0).elim, fun _ _ => Or.inl rfl, fun _ => Nat.le_of_ble_eq_true rfl⟩

theorem setReportLink (h : Hdr) (link : Nat) : Statement (.setReportLink h link) :=
  ⟨fun h0 => (Option.some_ne_none h h0).elim, fun _ _ => Or.inl rfl, fun _ => Nat.le_of_ble_eq_true rfl⟩

theorem readLinkCounters (h : Hdr) (link clear : Nat) : Statement (.readLinkCounters h link clear) :=
  ⟨fun h0 => (Option.some_ne_none h h0).elim, fun _ _ => Or.inl rfl, fun _ => Nat.le_of_ble_eq_true rfl⟩

end Sys2Proof.Laws.Framed
end

