-- ==== Sys2Proof/Laws/Progress.lean ====
section
/-! SUPPORT. What the work inside a stage leaves as it is: how far the instant in progress has come. -/

namespace Sys2Proof.Machine

/-- The places an instant in progress has come to: the next bus, feed, route, bus and link of its second to sixth stages. -/
def InstantWork.places (w : InstantWork) : Nat × Nat × Nat × Nat × Nat :=
  (w.nextBus, w.nextFeed, w.nextRoute, w.nextMix, w.nextLink)

def State.progress (s : State) : Option (Nat × Nat × Nat × Nat × Nat) := s.instant.map InstantWork.places

/-! ### Single updates -/

@[simp] theorem progress_setBus (s : State) (b : Nat) (x : Bus) : (s.setBus b x).progress = s.progress := rfl
@[simp] theorem progress_setKernel (s : State) (k : Nat) (x : KernelSet) : (s.setKernel k x).progress = s.progress := rfl
@[simp] theorem progress_setFeed (s : State) (f : Nat) (x : Feed) : (s.setFeed f x).progress = s.progress := rfl
@[simp] theorem progress_setOwner (s : State) (p : Nat) (x : Owner) : (s.setOwner p x).progress = s.progress := rfl
@[simp] theorem progress_setWindow (s : State) (w : Nat) (x : Window) : (s.setWindow w x).progress = s.progress := rfl
@[simp] theorem progress_setSlot (s : State) (k : Nat) (x : Slot) : (s.setSlot k x).progress = s.progress := rfl
@[simp] theorem progress_setEntry (s : State) (t : TableId) (i : Nat) (x : Slot) : (s.setEntry t i x).progress = s.progress := rfl
@[simp] theorem progress_setWord (s : State) (a : Nat) (x : Sample) : (s.setWord a x).progress = s.progress := rfl
@[simp] theorem progress_setArb (s : State) (l : Link) (a : Arbiter) : (s.setArb l a).progress = s.progress := rfl
@[simp] theorem progress_count (s : State) (l : Link) (f : Counters → Counters) : (s.count l f).progress = s.progress := rfl
@[simp] theorem progress_pushReport (s : State) (r : Report) : (s.pushReport r).progress = s.progress := rfl
@[simp] theorem progress_clearWords (s : State) (ps : List Nat) (d : Nat) : (s.clearWords ps d).progress = s.progress := rfl
@[simp] theorem progress_putOutput (s : State) (n : Nat) (y : Sample) : (s.putOutput n y).progress = s.progress := by
  unfold State.putOutput State.progress; split
  · rename_i w h; simp [h, InstantWork.places]
  · rfl
@[simp] theorem progress_putFinished (s : State) (n : Nat) (y : Sample) : (s.putFinished n y).progress = s.progress := by
  unfold State.putFinished State.progress; split
  · rename_i w h; simp [h, InstantWork.places]
  · rfl

/-- A function that leaves the progress leaves them over a whole list. -/
theorem progress_foldl {β : Type} (f : State → β → State) (h : ∀ s b, (f s b).progress = s.progress) :
    ∀ (l : List β) (s : State), (l.foldl f s).progress = s.progress
  | [], _ => rfl
  | b :: l, s => by rw [List.foldl_cons, progress_foldl f h l, h]

@[simp] theorem progress_forRange (f : State → Nat → State) (h : ∀ s b, (f s b).progress = s.progress) (a n : Nat) (s : State) :
    (forRange f a n s).progress = s.progress := progress_foldl f h _ _

/-! ### Reports and flow frames -/

@[simp] theorem progress_offer (s : State) (r : Report) : (s.offer r).progress = s.progress := by
  unfold State.offer; split <;> rfl

@[simp] theorem progress_event (s : State) (k : EventKind) (tag : Nat) (st : Status) (x : Subject) (ws : List Word) :
    (s.event k tag st x ws).progress = s.progress := progress_offer _ _

@[simp] theorem progress_plainEvent (s : State) (k : EventKind) (x : Subject) (ws : List Word) :
    (s.plainEvent k x ws).progress = s.progress := progress_offer _ _

@[simp] theorem progress_reply (s : State) (a : Ask) (st : Status) (ws : List Word) : (s.reply a st ws).progress = s.progress := by
  unfold State.reply; split <;> rfl

@[simp] theorem progress_refuse (s : State) (a : Ask) (st : Status) (ws : List Word) :
    (s.refuse a st ws).progress = s.progress := by
  unfold State.refuse; split <;> simp

@[simp] theorem progress_stickyEvent (s : State) (n : Nat) (k : Sticky) (e : EventKind) (ws : List Word) :
    (s.stickyEvent n k e ws).progress = s.progress := by
  unfold State.stickyEvent; split <;> simp

@[simp] theorem progress_handFlow (s : State) (l : Link) (f : FlowFrame) : (s.handFlow l f).progress = s.progress := by
  unfold State.handFlow; dsimp only; repeat' split
  all_goals rfl

@[simp] theorem progress_sendFlow (s : State) (n : Nat) (p : Bool) : (s.sendFlow n p).progress = s.progress := by
  unfold State.sendFlow; dsimp only; split <;> simp

/-! ### Pages, buffers and feeds -/

@[simp] theorem progress_returnPages (s : State) (ps : List Nat) : (s.returnPages ps).progress = s.progress := by
  unfold State.returnPages; refine (progress_foldl _ ?_ _ _).trans rfl; exact fun _ _ => rfl

@[simp] theorem progress_takePages (s : State) (o : Owner) (n : Nat) : (s.takePages o n).progress = s.progress := by
  unfold State.takePages; refine (progress_foldl _ ?_ _ _).trans rfl; exact fun _ _ => rfl

@[simp] theorem progress_clearLine (s : State) (b : Nat) : (s.clearLine b).progress = s.progress := rfl

@[simp] theorem progress_writeSample (s : State) (n : Nat) (x : Sample) : (s.writeSample n x).progress = s.progress := rfl

@[simp] theorem progress_writeSamples (s : State) (n : Nat) (xs : List Sample) : (s.writeSamples n xs).progress = s.progress := by
  unfold State.writeSamples; refine progress_foldl _ ?_ _ _; exact fun _ _ => rfl

@[simp] theorem progress_consumeSamples (n : Nat) : ∀ (k : Nat) (s : State), (s.consumeSamples n k).progress = s.progress
  | 0, _ => rfl
  | k + 1, s => by rw [State.consumeSamples, progress_consumeSamples n k]; rfl

@[simp] theorem progress_pushZeros (n : Nat) : ∀ (k : Nat) (s : State), (s.pushZeros n k).progress = s.progress
  | 0, _ => rfl
  | k + 1, s => by rw [State.pushZeros, progress_pushZeros n k]; rfl

@[simp] theorem progress_arrivalFlow (s : State) (n : Nat) : (s.arrivalFlow n).progress = s.progress := by
  unfold State.arrivalFlow; dsimp only; repeat' split
  all_goals simp

@[simp] theorem progress_consumptionFlow (s : State) (n : Nat) : (s.consumptionFlow n).progress = s.progress := by
  unfold State.consumptionFlow; dsimp only; repeat' split
  all_goals simp

@[simp] theorem progress_closeFeed (s : State) (n : Nat) : (s.closeFeed n).progress = s.progress := by
  simp [State.closeFeed, State.lowerInUse]

@[simp] theorem progress_stateEvent (s : State) (n : Nat) (k : Sticky) (st : FeedState) :
    (s.stateEvent n k st).progress = s.progress := progress_stickyEvent _ _ _ _ _

@[simp] theorem progress_drainFeed (s : State) (n : Nat) : (s.drainFeed n).progress = s.progress := by
  unfold State.drainFeed; dsimp only; repeat' split
  all_goals simp

@[simp] theorem progress_drainEvent (s : State) (n : Nat) (st : FeedState) : (s.drainEvent n st).progress = s.progress := by
  unfold State.drainEvent; split <;> simp

@[simp] theorem progress_startEval (s : State) (n : Nat) : (s.startEval n).progress = s.progress := by
  unfold State.startEval; dsimp only; repeat' split
  all_goals simp

@[simp] theorem progress_feedClip (s : State) (n : Nat) (y : Int) : (s.feedClip n y).progress = s.progress := by
  simp [State.feedClip]

@[simp] theorem progress_advanceFeed (s : State) (n : Nat) : (s.advanceFeed n).progress = s.progress := by
  unfold State.advanceFeed; simp only [progress_pushZeros]; split <;> simp

@[simp] theorem progress_outputFeed (s : State) (n : Nat) : (s.outputFeed n).progress = s.progress := by
  unfold State.outputFeed; simp only [progress_putOutput]; split <;> simp

@[simp] theorem progress_starve (s : State) (n m : Nat) : (s.starve n m).progress = s.progress := by simp [State.starve]

@[simp] theorem progress_endDrain (s : State) (n : Nat) : (s.endDrain n).progress = s.progress := by simp [State.endDrain]

@[simp] theorem progress_convertFeed (s : State) (n : Nat) : (s.convertFeed n).progress = s.progress := by
  unfold State.convertFeed; dsimp only; repeat' split
  all_goals simp

@[simp] theorem progress_servoIfDue (s : State) (n : Nat) : (s.servoIfDue n).progress = s.progress := by
  unfold State.servoIfDue; split <;> simp

@[simp] theorem progress_feedStep (s : State) (n : Nat) : (s.feedStep n).progress = s.progress := by
  unfold State.feedStep; dsimp only; repeat' split
  all_goals simp

/-! ### Cues and the instant -/

@[simp] theorem progress_applyRouteGain (s : State) (i t n : Nat) : (s.applyRouteGain i t n).progress = s.progress := by
  unfold State.applyRouteGain; split <;> simp

@[simp] theorem progress_applyCue (s : State) (c : Cue) : (s.applyCue c).progress = s.progress := by
  unfold State.applyCue State.targetGone
  repeat' split
  all_goals first | rfl | simp

@[simp] theorem progress_applyDue (s : State) : s.applyDue.progress = s.progress :=
  progress_foldl _ progress_applyCue _ _

@[simp] theorem progress_settleBus (s : State) (b : Nat) : (s.settleBus b).progress = s.progress := by
  unfold State.settleBus; dsimp only; repeat' split
  all_goals simp

@[simp] theorem progress_routeStep (s : State) (i : Nat) : (s.routeStep i).progress = s.progress := by
  unfold State.routeStep; split
  · rename_i r w _ h; show Option.map _ (some _) = _; rw [State.progress, h]; rfl
  · rfl

@[simp] theorem progress_busClip (s : State) (b : Nat) (r : Int) : (s.busClip b r).progress = s.progress := by
  unfold State.busClip; simp only [progress_setBus]; split <;> simp

@[simp] theorem progress_delayLine (s : State) (b : Nat) (v : Sample) : (s.delayLine b v).1.progress = s.progress := by
  unfold State.delayLine; dsimp only; split <;> rfl

@[simp] theorem progress_mixBus (s : State) (b : Nat) : (s.mixBus b).progress = s.progress := by
  unfold State.mixBus
  split
  · dsimp only
    split
    · simp only [progress_putFinished, progress_delayLine]
      split <;> simp
    · rfl
  · rfl

@[simp] theorem progress_handLink (s : State) (l : Link) (x : List (Nat × Sample)) : (s.handLink l x).progress = s.progress := by
  unfold State.handLink; dsimp only; repeat' split
  all_goals rfl

@[simp] theorem progress_handStep (s : State) (i : Nat) : (s.handStep i).progress = s.progress := by
  unfold State.handStep; split <;> simp

/-! ### The stages, place by place -/

/-- An instant is in progress and has come to the places `q`. -/
def State.At (s : State) (q : Nat × Nat × Nat × Nat × Nat) : Prop := s.progress = some q

theorem at_work {s : State} (h : s.instant.isSome = true) : s.At s.work.places := by
  unfold State.At State.progress State.work
  rcases e : s.instant with _ | w
  · rw [e] at h; cases h
  · rfl

theorem instant_of_at {s : State} {q : Nat × Nat × Nat × Nat × Nat} (h : s.At q) : s.instant = some s.work ∧ s.work.places = q := by
  unfold State.At State.progress at h
  unfold State.work
  rcases e : s.instant with _ | w
  · rw [e] at h; cases h
  · rw [e] at h; injection h with h; exact ⟨rfl, h⟩

theorem inInstant_isSome (s : State) : s.inInstant.instant.isSome = true := by
  unfold State.inInstant; split
  · assumption
  · rfl

theorem at_of_progress {s t : State} {q : Nat × Nat × Nat × Nat × Nat} (h : s.At q) (e : t.progress = s.progress) : t.At q := e.trans h

theorem at_mapWork {s : State} {q : Nat × Nat × Nat × Nat × Nat} (h : s.At q) (f : InstantWork → InstantWork) :
    (s.mapWork f).At (f s.work).places := by
  obtain ⟨h1, -⟩ := instant_of_at h
  unfold State.At State.progress State.mapWork; rw [h1]; rfl

theorem mapWork_at {s : State} {q : Nat × Nat × Nat × Nat × Nat} (h : s.At q) (f : InstantWork → InstantWork) :
    s.mapWork f = { s with instant := some (f s.work) } := by
  obtain ⟨h1, -⟩ := instant_of_at h
  unfold State.mapWork; rw [h1]; rfl

theorem mapWork_id {s : State} {q : Nat × Nat × Nat × Nat × Nat} (h : s.At q) (f : InstantWork → InstantWork) (e : f s.work = s.work) :
    s.mapWork f = s := by
  rw [mapWork_at h, e]; obtain ⟨h1, -⟩ := instant_of_at h; rw [← h1]

theorem forRange_nil (f : State → Nat → State) {a n : Nat} (h : n ≤ a) (s : State) : forRange f a n s = s := by
  unfold forRange; rw [Nat.sub_eq_zero_of_le h]; rfl

theorem forRange_one (f : State → Nat → State) (a : Nat) (s : State) : forRange f a (a + 1) s = f s a := by
  unfold forRange; rw [Nat.add_sub_cancel_left]; rfl

theorem at_settleTo {s : State} {b f r m l : Nat} (n : Nat) (h : s.At (b, f, r, m, l)) : (s.settleTo n).At (max b n, f, r, m, l) := by
  have h0 : (forRange State.settleBus s.work.nextBus n s).At (b, f, r, m, l) :=
    at_of_progress h (progress_forRange _ progress_settleBus _ _ _)
  have := at_mapWork h0 fun w => { w with nextBus := max w.nextBus n }
  have h2 := (instant_of_at h0).2
  simp only [InstantWork.places, Prod.mk.injEq] at h2
  obtain ⟨e1, e2, e3, e4, e5⟩ := h2
  simp only [InstantWork.places, e1, e2, e3, e4, e5] at this
  exact this

theorem settleTo_done {s : State} {b f r m l n : Nat} (h : s.At (b, f, r, m, l)) (hn : n ≤ b) : s.settleTo n = s := by
  have h2 := (instant_of_at h).2
  injection h2 with e1
  unfold State.settleTo; rw [forRange_nil _ (by omega)]
  refine mapWork_id h _ ?_
  have : max s.work.nextBus n = s.work.nextBus := by omega
  rw [this]

theorem settleTo_next {s : State} {b f r m l : Nat} (h : s.At (b, f, r, m, l)) :
    s.settleTo (b + 1) = { s.settleBus b with instant := some { (s.settleBus b).work with nextBus := b + 1 } } := by
  have h2 := (instant_of_at h).2
  injection h2 with e1
  have h0 : (s.settleBus b).At (b, f, r, m, l) := at_of_progress h (progress_settleBus _ _)
  have h3 := (instant_of_at h0).2
  injection h3 with e3
  unfold State.settleTo; rw [e1, forRange_one, mapWork_at h0]
  have : max (s.settleBus b).work.nextBus (b + 1) = b + 1 := by omega
  rw [this]

theorem at_feedsTo {s : State} {b f r m l : Nat} (n : Nat) (h : s.At (b, f, r, m, l)) :
    (s.feedsTo n).At (max b 64, max f n, r, m, l) := by
  have h1 := at_settleTo 64 h
  have h0 : (forRange State.feedStep (s.settleTo 64).work.nextFeed n (s.settleTo 64)).At (max b 64, f, r, m, l) :=
    at_of_progress h1 (progress_forRange _ progress_feedStep _ _ _)
  have := at_mapWork h0 fun w => { w with nextFeed := max w.nextFeed n }
  have h2 := (instant_of_at h0).2
  simp only [InstantWork.places, Prod.mk.injEq] at h2
  obtain ⟨e1, e2, e3, e4, e5⟩ := h2
  simp only [InstantWork.places, e1, e2, e3, e4, e5] at this
  exact this

theorem feedsTo_done {s : State} {b f r m l n : Nat} (h : s.At (b, f, r, m, l)) (hb : 64 ≤ b) (hn : n ≤ f) : s.feedsTo n = s := by
  have h2 := (instant_of_at h).2
  injection h2 with e1 e2; injection e2 with e2
  unfold State.feedsTo; rw [settleTo_done h hb]; dsimp only
  rw [forRange_nil _ (by omega)]
  refine mapWork_id h _ ?_
  have : max s.work.nextFeed n = s.work.nextFeed := by omega
  rw [this]

theorem feedsTo_next {s : State} {b f r m l : Nat} (h : s.At (b, f, r, m, l)) (hb : 64 ≤ b) :
    s.feedsTo (f + 1) = { s.feedStep f with instant := some { (s.feedStep f).work with nextFeed := f + 1 } } := by
  have h2 := (instant_of_at h).2
  injection h2 with e1 e2; injection e2 with e2
  have h0 : (s.feedStep f).At (b, f, r, m, l) := at_of_progress h (progress_feedStep _ _)
  have h3 := (instant_of_at h0).2
  injection h3 with e3 e4; injection e4 with e4
  unfold State.feedsTo; rw [settleTo_done h hb]; dsimp only
  rw [e2, forRange_one, mapWork_at h0]
  have : max (s.feedStep f).work.nextFeed (f + 1) = f + 1 := by omega
  rw [this]

theorem at_routesTo {s : State} {b f r m l : Nat} (n : Nat) (h : s.At (b, f, r, m, l)) :
    (s.routesTo n).At (max b 64, max f 128, max r n, m, l) := by
  have h1 := at_feedsTo 128 h
  have h0 : (forRange State.routeStep (s.feedsTo 128).work.nextRoute n (s.feedsTo 128)).At (max b 64, max f 128, r, m, l) :=
    at_of_progress h1 (progress_forRange _ progress_routeStep _ _ _)
  have := at_mapWork h0 fun w => { w with nextRoute := max w.nextRoute n }
  have h2 := (instant_of_at h0).2
  simp only [InstantWork.places, Prod.mk.injEq] at h2
  obtain ⟨e1, e2, e3, e4, e5⟩ := h2
  simp only [InstantWork.places, e1, e2, e3, e4, e5] at this
  exact this

theorem routesTo_done {s : State} {b f r m l n : Nat} (h : s.At (b, f, r, m, l)) (hb : 64 ≤ b) (hf : 128 ≤ f) (hn : n ≤ r) :
    s.routesTo n = s := by
  have h2 := (instant_of_at h).2
  injection h2 with e1 e2; injection e2 with e2 e3; injection e3 with e3
  unfold State.routesTo; rw [feedsTo_done h hb hf]; dsimp only
  rw [forRange_nil _ (by omega)]
  refine mapWork_id h _ ?_
  have : max s.work.nextRoute n = s.work.nextRoute := by omega
  rw [this]

theorem routesTo_next {s : State} {b f r m l : Nat} (h : s.At (b, f, r, m, l)) (hb : 64 ≤ b) (hf : 128 ≤ f) :
    s.routesTo (r + 1) = { s.routeStep r with instant := some { (s.routeStep r).work with nextRoute := r + 1 } } := by
  have h2 := (instant_of_at h).2
  injection h2 with e1 e2; injection e2 with e2 e3; injection e3 with e3
  have h0 : (s.routeStep r).At (b, f, r, m, l) := at_of_progress h (progress_routeStep _ _)
  have h3 := (instant_of_at h0).2
  injection h3 with a1 a2; injection a2 with a2 a3; injection a3 with a3
  unfold State.routesTo; rw [feedsTo_done h hb hf]; dsimp only
  rw [e3, forRange_one, mapWork_at h0]
  have : max (s.routeStep r).work.nextRoute (r + 1) = r + 1 := by omega
  rw [this]

theorem at_mixTo {s : State} {b f r m l : Nat} (n : Nat) (h : s.At (b, f, r, m, l)) :
    (s.mixTo n).At (max b 64, max f 128, max r (s.tableSize .route), max m n, l) := by
  have h1 := at_routesTo (s.tableSize .route) h
  have h0 : (forRange State.mixBus (s.routesTo (s.tableSize .route)).work.nextMix n (s.routesTo (s.tableSize .route))).At
      (max b 64, max f 128, max r (s.tableSize .route), m, l) :=
    at_of_progress h1 (progress_forRange _ progress_mixBus _ _ _)
  have := at_mapWork h0 fun w => { w with nextMix := max w.nextMix n }
  have h2 := (instant_of_at h0).2
  simp only [InstantWork.places, Prod.mk.injEq] at h2
  obtain ⟨e1, e2, e3, e4, e5⟩ := h2
  simp only [InstantWork.places, e1, e2, e3, e4, e5] at this
  exact this

theorem mixTo_done {s : State} {b f r m l n : Nat} (h : s.At (b, f, r, m, l)) (hb : 64 ≤ b) (hf : 128 ≤ f)
    (hr : s.tableSize .route ≤ r) (hn : n ≤ m) : s.mixTo n = s := by
  have h2 := (instant_of_at h).2
  injection h2 with e1 e2; injection e2 with e2 e3; injection e3 with e3 e4; injection e4 with e4
  unfold State.mixTo; rw [routesTo_done h hb hf hr]; dsimp only
  rw [forRange_nil _ (by omega)]
  refine mapWork_id h _ ?_
  have : max s.work.nextMix n = s.work.nextMix := by omega
  rw [this]

theorem tableSize_of_settings {s t : State} (h : s.settings = t.settings) (x : TableId) : s.tableSize x = t.tableSize x := by
  have h1 : s.admissionBanks = t.admissionBanks := congrArg Settings.admissionBanks h
  have h2 : s.routeBanks = t.routeBanks := congrArg Settings.routeBanks h
  unfold State.tableSize State.banksOf
  cases x <;> simp only [h1, h2]

theorem at_handTo {s : State} {b f r m l : Nat} (n : Nat) (h : s.At (b, f, r, m, l)) :
    (s.handTo n).At (max b 64, max f 128, max r (s.tableSize .route), max m 64, max l n) := by
  have h1 := at_mixTo 64 h
  have h0 : (forRange State.handStep (s.mixTo 64).work.nextLink n (s.mixTo 64)).At
      (max b 64, max f 128, max r (s.tableSize .route), max m 64, l) :=
    at_of_progress h1 (progress_forRange _ progress_handStep _ _ _)
  have := at_mapWork h0 fun w => { w with nextLink := max w.nextLink n }
  have h2 := (instant_of_at h0).2
  simp only [InstantWork.places, Prod.mk.injEq] at h2
  obtain ⟨e1, e2, e3, e4, e5⟩ := h2
  simp only [InstantWork.places, e1, e2, e3, e4, e5] at this
  exact this

theorem handTo_next {s : State} {b f r m l : Nat} (h : s.At (b, f, r, m, l)) (hb : 64 ≤ b) (hf : 128 ≤ f)
    (hr : s.tableSize .route ≤ r) (hm : 64 ≤ m) :
    s.handTo (l + 1) = { s.handStep l with instant := some { (s.handStep l).work with nextLink := l + 1 } } := by
  have h2 := (instant_of_at h).2
  simp only [InstantWork.places, Prod.mk.injEq] at h2
  obtain ⟨e1, e2, e3, e4, e5⟩ := h2
  have h0 : (s.handStep l).At (b, f, r, m, l) := at_of_progress h (progress_handStep _ _)
  have h3 := (instant_of_at h0).2
  injection h3 with a1 a2; injection a2 with a2 a3; injection a3 with a3 a4; injection a4 with a4 a5
  unfold State.handTo; rw [mixTo_done h hb hf hr hm]; dsimp only
  rw [e5, forRange_one, mapWork_at h0]
  have : max (s.handStep l).work.nextLink (l + 1) = l + 1 := by omega
  rw [this]

end Sys2Proof.Machine
end

