-- ==== Sys2Proof/Laws/RowEffects.lean ====
section
/-! SUPPORT. Every row is a chain of effects (`exec_effects`), so an invariant that each single effect keeps is kept by every step. -/

namespace Sys2Proof.Machine

/-! ### Room for a reply -/

/-- What comes about inside an instant leaves room in a queue that had some: an event enters below 56 entries only. -/
theorem Effect.room {s t : State} (h : Effect 56 s t) (hs : s.entryCount < 64) : t.entryCount < 64 := by
  cases h with
  | quiet _ h => rw [show t.entryCount = s.entryCount by have e := congrArg State.entryCount h; exact e]; exact hs
  | close n _ => rw [closeFeed_eq]; exact hs
  | report r h =>
    have e : ({ s with reports := s.reports ++ [r] } : State).entryCount = s.entryCount + 1 := by
      show (s.reports ++ [r]).length + (if s.heldPlace then 1 else 0) = s.entryCount + 1
      rw [List.length_append, List.length_singleton, State.entryCount]
      omega
    omega
  | reportsLeave k =>
    have e : ({ s with reports := s.reports.drop k } : State).entryCount ≤ s.entryCount := by
      show (s.reports.drop k).length + (if s.heldPlace then 1 else 0) ≤ s.entryCount
      rw [List.length_drop, State.entryCount]
      omega
    omega
  | image _ _ _ hm => exact absurd hm (by decide)
  | carry _ hm => exact absurd hm (by decide)
  | cue _ hm => exact absurd hm (by decide)
  | openFeed _ _ _ _ _ _ _ _ hm => exact absurd hm (by decide)
  | retune _ _ _ hm => exact absurd hm (by decide)
  | exchange _ _ hm => exact absurd hm (by decide)
  | bank _ _ hm => exact absurd hm (by decide)
  | blockStarts _ hm => exact absurd hm (by decide)
  | blockTurns _ _ hm => exact absurd hm (by decide)
  | blockEnds _ _ hm => exact absurd hm (by decide)
  | blockLeaves _ hm => exact absurd hm (by decide)
  | starts hm => exact absurd hm (by decide)
  | stops hm => exact absurd hm (by decide)
  | resets _ hm => exact absurd hm (by decide)
  | bus b x hp => exact hs
  | feed n x h => exact hs
  | kernel k x hi hr => exact hs
  | word a x => exact hs
  | clear ps d => exact hs
  | window w x => exact hs
  | slot k x h => exact hs
  | arb l a h => exact hs
  | fifo l q h => exact hs
  | cues q h => exact hs

theorem Effects.room {s t : State} (h : Effects 56 s t) (hs : s.entryCount < 64) : t.entryCount < 64 := by
  induction h with
  | refl => exact hs
  | tail _ h ih => exact h.room ih

/-! ### Answers -/

/-- An answer to `a` finds a place: an acknowledged command is taken only below 64 entries (R163). -/
abbrev State.HasRoom (s : State) (a : Ask) : Prop := a.acked = true → s.entryCount < 64

theorem effects_reply {s u : State} {a : Ask} (h : Effects 64 s u) (hu : u.HasRoom a) (st : Status) (ws : List Word) :
    Effects 64 s (u.reply a st ws) := by
  by_cases e : a.acked = true
  · rw [reply_acked st ws e]
    exact h.andOne (.report u _ (hu e))
  · rw [reply_posted st ws (Bool.eq_false_iff.2 e)]
    exact h

theorem effects_refuse {s u : State} {a : Ask} (h : Effects 64 s u) (hu : u.HasRoom a) (st : Status) (ws : List Word) :
    Effects 64 s (u.refuse a st ws) := by
  by_cases e : a.acked = true
  · rw [refuse_acked st ws e]
    exact h.andOne (.report u _ (hu e))
  · rw [refuse_posted st ws (Bool.eq_false_iff.2 e)]
    exact h.andThen (effects_event _ _ _ _ _ _).widen

/-- What a command of the mix engine does, it does between instants. -/
theorem effects_finished {s : State} {a : Ask} (hs : s.HasRoom a) {f : State → State}
    (h : ∀ u : State, u.HasRoom a → Effects 64 u (f u)) : Effects 64 s (f s.finishInstant) :=
  (effects_finishInstant s).widen.andThen (h _ fun e => (effects_finishInstant s).room (hs e))

theorem effects_engineEvent (s : State) : Effects 64 s s.engineEvent := (effects_plainEvent _ _ _ _).widen

/-! ### Engine -/

theorem effects_clearSequences (s : State) : Effects 64 s s.clearSequences :=
  (effects_setArb s .l0 { s.arb .l0 with busSequence := 0 } id).andThen
    (effects_setArb _ .l1 { s.arb .l1 with busSequence := 0 } id)

theorem effects_dropAssemblies (s : State) : Effects 64 s s.dropAssemblies :=
  (effects_setArb s .l0 { s.arb .l0 with assembly := none } id).andThen
    (effects_setArb _ .l1 { s.arb .l1 with assembly := none } id)

theorem effects_closeIfOpen (s : State) (n : Nat) :
    Effects 64 s (if (s.feed n).state = .closed then s else s.closeFeed n) := by
  split
  · exact .refl s
  · rename_i h
    exact .one (.close s n h)

theorem effects_closeAllFeeds (s : State) : Effects 64 s s.closeAllFeeds := Effects.foldl _ effects_closeIfOpen _ _

theorem effects_snapRoute (s : State) (i : Nat) : Effects 64 s (s.snapRoute i) := by
  unfold State.snapRoute
  split
  · rename_i h
    exact effects_setEntry _ _ _ _ (alike_route h rfl rfl)
  · exact .refl s

theorem effects_stopBus (s : State) (b : Nat) : Effects 64 s (s.stopBus b) :=
  (effects_clearLine s b).andThen (effects_setBus _ b _ rfl)

theorem cues_foldl {β : Type} (f : State → β → State) (h : ∀ s b, (f s b).cues = s.cues) :
    ∀ (l : List β) (s : State), (l.foldl f s).cues = s.cues
  | [], _ => rfl
  | b :: l, s => (cues_foldl f h l (f s b)).trans (h s b)

theorem entryCount_foldl {β : Type} (f : State → β → State) (h : ∀ s b, (f s b).entryCount = s.entryCount) :
    ∀ (l : List β) (s : State), (l.foldl f s).entryCount = s.entryCount
  | [], _ => rfl
  | b :: l, s => (entryCount_foldl f h l (f s b)).trans (h s b)

theorem cues_snapRoutes (s : State) : s.snapRoutes.cues = s.cues := by
  unfold State.snapRoutes
  exact cues_foldl _ (fun t i => by unfold State.snapRoute; split <;> rfl) _ _

theorem cues_stopBuses (s : State) : s.stopBuses.cues = s.cues := by
  unfold State.stopBuses
  exact cues_foldl State.stopBus (fun _ _ => rfl) (List.range Config.buses) s

theorem entryCount_closeFeed (s : State) (n : Nat) : (s.closeFeed n).entryCount = s.entryCount := by
  rw [closeFeed_eq]
  rfl

theorem entryCount_closeAllFeeds (s : State) : s.closeAllFeeds.entryCount = s.entryCount := by
  unfold State.closeAllFeeds
  refine entryCount_foldl _ (fun t n => ?_) _ _
  split
  · rfl
  · exact entryCount_closeFeed t n

theorem entryCount_snapRoutes (s : State) : s.snapRoutes.entryCount = s.entryCount := by
  unfold State.snapRoutes
  exact entryCount_foldl _ (fun t i => by unfold State.snapRoute; split <;> rfl) _ _

theorem entryCount_stopBuses (s : State) : s.stopBuses.entryCount = s.entryCount := by
  unfold State.stopBuses
  exact entryCount_foldl State.stopBus (fun _ _ => rfl) (List.range Config.buses) s

/-- STOP ENGINE's last effect, after its assemblies are dropped. -/
def State.inConfig (s : State) : State := { s with engine := .config }

def State.withoutCues (s : State) : State := { s with cues := [] }

theorem stopEngine_eq (s : State) : s.stopEngine = s.closeAllFeeds.withoutCues.snapRoutes.stopBuses.dropAssemblies.inConfig := rfl

theorem entryCount_inConfig (s : State) : s.inConfig.entryCount = s.entryCount := rfl
theorem entryCount_withoutCues (s : State) : s.withoutCues.entryCount = s.entryCount := rfl
theorem entryCount_dropAssemblies (s : State) : s.dropAssemblies.entryCount = s.entryCount := rfl

theorem entryCount_stopEngine (s : State) : s.stopEngine.entryCount = s.entryCount := by
  rw [stopEngine_eq, entryCount_inConfig, entryCount_dropAssemblies, entryCount_stopBuses, entryCount_snapRoutes,
    entryCount_withoutCues, entryCount_closeAllFeeds]

theorem effects_withoutCues (s : State) : Effects 64 s s.withoutCues := .one (.cues s [] (List.nil_sublist _))

theorem effects_snapRoutes (s : State) : Effects 64 s s.snapRoutes := Effects.foldl _ effects_snapRoute _ _

theorem effects_stopBuses (s : State) : Effects 64 s s.stopBuses := Effects.foldl _ effects_stopBus _ _

theorem effects_stopEngine (s : State) : Effects 64 s s.stopEngine := by
  rw [stopEngine_eq]
  have hd : ∀ t : State, t.dropAssemblies.cues = t.cues := fun _ => rfl
  have hw : s.closeAllFeeds.withoutCues.cues = [] := rfl
  refine (((((effects_closeAllFeeds s).andThen (effects_withoutCues _)).andThen (effects_snapRoutes _)).andThen
    (effects_stopBuses _)).andThen (effects_dropAssemblies _)).andOne (.stops _ (by decide) ?_)
  rw [hd, cues_stopBuses, cues_snapRoutes, hw]

theorem effects_started (s : State) : Effects 64 s { s.clearSequences with engine := .run } :=
  (effects_clearSequences s).andOne (.starts _ (by decide))

theorem effects_ownStartEngine (s : State) (a : Ask) (hs : s.HasRoom a) : Effects 64 s (s.ownStartEngine a) := by
  refine effects_finished hs (f := fun u => if u.engine = .run then u.refuse a .wrongState []
    else ({ u.clearSequences with engine := .run }.reply a .ok (words48 u.houseTime)).engineEvent) fun u hu => ?_
  dsimp only
  split
  · exact effects_refuse (.refl u) hu _ _
  · exact (effects_reply (effects_started u) hu _ _).andThen (effects_engineEvent _)


theorem effects_ownStopEngine (s : State) (a : Ask) (hs : s.HasRoom a) : Effects 64 s (s.ownStopEngine a) := by
  refine effects_finished hs (f := fun u => if u.engine = .run then
    (u.stopEngine.reply a .ok (words48 u.houseTime)).engineEvent else u.refuse a .wrongState []) fun u hu => ?_
  split
  · exact (effects_reply (effects_stopEngine u) (fun e => (entryCount_stopEngine u).trans_lt (hu e)) _ _).andThen
      (effects_engineEvent _)
  · exact effects_refuse (.refl u) (by exact hu) _ _

/-! ### Settings (R9 to R11, R160, R161, R166) -/

theorem effects_ownSetHouseRate (s : State) (a : Ask) (rate : Nat) (hs : s.HasRoom a) : Effects 64 s (s.ownSetHouseRate a rate) := by
  refine effects_finished hs (f := fun u => if u.engine = .run then u.refuse a .wrongState []
    else match houseRate? rate with
      | none => u.refuse a .badOperand []
      | some r => { u with houseRate := r }.reply a .ok [wordNat r.hz]) fun u hu => ?_
  split
  · exact effects_refuse (.refl u) (by exact hu) _ _
  · split
    · exact effects_refuse (.refl u) (by exact hu) _ _
    · exact effects_reply (effects_quiet (by rfl)) (by exact hu) _ _

theorem effects_ownSetHouseTime (s : State) (a : Ask) (time : Nat) (hs : s.HasRoom a) : Effects 64 s (s.ownSetHouseTime a time) := by
  refine effects_finished hs (f := fun u => if u.engine = .run then u.refuse a .wrongState []
    else { u with houseTime := BitVec.ofNat 48 time }.reply a .ok (words48 (BitVec.ofNat 48 time))) fun u hu => ?_
  split
  · exact effects_refuse (.refl u) (by exact hu) _ _
  · exact effects_reply (effects_quiet (by rfl)) (by exact hu) _ _

theorem effects_ownSetLinkFraming (s : State) (a : Ask) (link k : Nat) (hs : s.HasRoom a) :
    Effects 64 s (s.ownSetLinkFraming a link k) := by
  refine effects_finished hs (f := fun u => if u.engine = .run then u.refuse a .wrongState []
    else match Link.ofNat? link with
      | none => u.refuse a .badIndex []
      | some l =>
        if k = 4 ∨ k = 8 ∨ k = 16 then { u with framing := u.framing.set l k }.reply a .ok []
        else u.refuse a .badOperand []) fun u hu => ?_
  split
  · exact effects_refuse (.refl u) (by exact hu) _ _
  · split
    · exact effects_refuse (.refl u) (by exact hu) _ _
    · split
      · exact effects_reply (effects_quiet (by rfl)) (by exact hu) _ _
      · exact effects_refuse (.refl u) (by exact hu) _ _

theorem effects_ownReadTime (s : State) (a : Ask) (hs : s.HasRoom a) : Effects 64 s (s.ownReadTime a) := by
  unfold State.ownReadTime
  exact effects_reply (effects_finishInstant s).widen (fun e => (effects_finishInstant s).room (hs e)) _ _

theorem effects_ownSetLinkRole (s : State) (a : Ask) (link role : Nat) (hs : s.HasRoom a) :
    Effects 64 s (s.ownSetLinkRole a link role) := by
  unfold State.ownSetLinkRole
  split
  · exact effects_refuse (.refl s) (by exact hs) _ _
  · split
    · exact effects_refuse (.refl s) (by exact hs) _ _
    · exact effects_reply (effects_quiet (by rfl)) (by exact hs) _ _

theorem effects_ownSetReportLink (s : State) (a : Ask) (link : Nat) (hs : s.HasRoom a) :
    Effects 64 s (s.ownSetReportLink a link) := by
  unfold State.ownSetReportLink
  split
  · exact effects_refuse (.refl s) (by exact hs) _ _
  · exact effects_reply (effects_quiet (by rfl)) (by exact hs) _ _

theorem effects_ownReadLinkCounters (s : State) (a : Ask) (link clear : Nat) (hs : s.HasRoom a) :
    Effects 64 s (s.ownReadLinkCounters a link clear) := by
  unfold State.ownReadLinkCounters
  split
  · exact effects_refuse (.refl s) (by exact hs) _ _
  · split
    · exact effects_refuse (.refl s) (by exact hs) _ _
    · exact effects_reply (effects_count s _ _) (by exact hs) _ _

/-! ### Routes and buses (R15, R18 to R23) -/

theorem entryCount_applyRouteGain (s : State) (i t n : Nat) : (s.applyRouteGain i t n).entryCount = s.entryCount := by
  unfold State.applyRouteGain
  split <;> rfl

theorem effects_ownSetRouteGain (s : State) (a : Ask) (i t n : Nat) (hs : s.HasRoom a) :
    Effects 64 s (s.ownSetRouteGain a i t n) := by
  refine effects_finished hs (f := fun u => if u.tableSize .route ≤ i then u.refuse a .badIndex []
    else match u.routeAt i with
      | none => u.refuse a .routeEmpty []
      | some r =>
        (u.applyRouteGain i t n).reply a .ok [wordNat (r.current / 65536), wordNat t, wordNat n]) fun u hu => ?_
  split
  · exact effects_refuse (.refl u) (by exact hu) _ _
  · split
    · exact effects_refuse (.refl u) (by exact hu) _ _
    · exact effects_reply (effects_applyRouteGain u i t n) (fun e => (entryCount_applyRouteGain u i t n).trans_lt (hu e)) _ _

theorem effects_ownEnableBus (s : State) (a : Ask) (b : Nat) (hs : s.HasRoom a) : Effects 64 s (s.ownEnableBus a b) := by
  refine effects_finished hs (f := fun u => if 63 < b then u.refuse a .badIndex []
    else (u.setBus b { u.bus b with state := (u.bus b).state.enable }).reply a .ok
      [wordNat (u.bus b).state.enable.num]) fun u hu => ?_
  dsimp only
  split
  · exact effects_refuse (.refl u) (by exact hu) _ _
  · exact effects_reply (effects_setBus u b _ (by rfl)) (by exact hu) _ _

theorem effects_ownDisableBus (s : State) (a : Ask) (b : Nat) (hs : s.HasRoom a) : Effects 64 s (s.ownDisableBus a b) := by
  refine effects_finished hs (f := fun u => if 63 < b then u.refuse a .badIndex []
    else (u.setBus b { u.bus b with state := (u.bus b).state.disable }).reply a .ok
      [wordNat (u.bus b).state.disable.num]) fun u hu => ?_
  dsimp only
  split
  · exact effects_refuse (.refl u) (by exact hu) _ _
  · exact effects_reply (effects_setBus u b _ (by rfl)) (by exact hu) _ _

theorem effects_ownSetBusTrim (s : State) (a : Ask) (b t : Nat) (hs : s.HasRoom a) : Effects 64 s (s.ownSetBusTrim a b t) := by
  refine effects_finished hs (f := fun u => if 63 < b then u.refuse a .badIndex []
    else (u.applyBusTrim b t).reply a .ok [wordNat (min t Config.unityTrim)]) fun u hu => ?_
  split
  · exact effects_refuse (.refl u) (by exact hu) _ _
  · exact effects_reply (effects_setBus u b _ (by rfl)) (by exact hu) _ _

theorem effects_ownSetBusMute (s : State) (a : Ask) (b x : Nat) (hs : s.HasRoom a) : Effects 64 s (s.ownSetBusMute a b x) := by
  refine effects_finished hs (f := fun u => if 63 < b then u.refuse a .badIndex []
    else match onOff? x with
      | none => u.refuse a .badOperand []
      | some on => (u.applyBusMute b on).reply a .ok [wordBool on]) fun u hu => ?_
  split
  · exact effects_refuse (.refl u) (by exact hu) _ _
  · split
    · exact effects_refuse (.refl u) (by exact hu) _ _
    · exact effects_reply (effects_setBus u b _ (by rfl)) (by exact hu) _ _

theorem effects_ownSetBusMode (s : State) (a : Ask) (b x f : Nat) (hs : s.HasRoom a) : Effects 64 s (s.ownSetBusMode a b x f) := by
  refine effects_finished hs (f := fun u => if 63 < b then u.refuse a .badIndex []
    else match busMode? x with
      | none => u.refuse a .badOperand []
      | some m =>
        if 127 < f then u.refuse a .badOperand []
        else (u.applyBusMode b m f).reply a .ok [wordNat m.num, wordNat f]) fun u hu => ?_
  split
  · exact effects_refuse (.refl u) (by exact hu) _ _
  · split
    · exact effects_refuse (.refl u) (by exact hu) _ _
    · split
      · exact effects_refuse (.refl u) (by exact hu) _ _
      · exact effects_reply (effects_setBus u b _ (by rfl)) (by exact hu) _ _

theorem entryCount_exchangeDelay (s : State) (b d : Nat) : (s.exchangeDelay b d).entryCount = s.entryCount := by
  have h : ∀ (t : State) (x : Bus), ((t.setBus b x).clearLine b).entryCount = t.entryCount := fun _ _ => rfl
  unfold State.exchangeDelay
  dsimp only
  rw [h, takePages_eq, returnPages_eq]
  rfl

theorem effects_ownSetBusDelay (s : State) (a : Ask) (b x : Nat) (hs : s.HasRoom a) : Effects 64 s (s.ownSetBusDelay a b x) := by
  refine effects_finished hs (f := fun u =>
    let d := min x Config.maxDelay
    if 63 < b then u.refuse a .badIndex []
    else if (u.bus b).state ≠ .disabled then u.refuse a .busActive []
    else if u.freeList.length + (u.bus b).pages.length < pagesFor d then u.refuse a .noPages []
    else (u.exchangeDelay b d).reply a .ok [wordNat d, wordNat (pagesFor d)]) fun u hu => ?_
  dsimp only
  split
  · exact effects_refuse (.refl u) (by exact hu) _ _
  · rename_i hb
    split
    · exact effects_refuse (.refl u) (by exact hu) _ _
    · split
      · exact effects_refuse (.refl u) (by exact hu) _ _
      · rename_i hp
        exact effects_reply (.one (.exchange u b _ (by decide) (Nat.lt_succ_of_le (Nat.not_lt.1 hb)) (Nat.not_lt.1 hp)))
          (fun e => (entryCount_exchangeDelay u b _).trans_lt (hu e)) _ _

theorem effects_ownSetBusLink (s : State) (a : Ask) (b x : Nat) (hs : s.HasRoom a) : Effects 64 s (s.ownSetBusLink a b x) := by
  refine effects_finished hs (f := fun u => if 63 < b then u.refuse a .badIndex []
    else if (u.bus b).state ≠ .disabled then u.refuse a .busActive []
    else match busLink? x with
      | none => u.refuse a .badOperand []
      | some l => (u.setBus b { u.bus b with link := l }).reply a .ok []) fun u hu => ?_
  dsimp only
  split
  · exact effects_refuse (.refl u) (by exact hu) _ _
  · split
    · exact effects_refuse (.refl u) (by exact hu) _ _
    · split
      · exact effects_refuse (.refl u) (by exact hu) _ _
      · exact effects_reply (effects_setBus u b _ (by rfl)) (by exact hu) _ _

theorem effects_ownReadBus (s : State) (a : Ask) (b : Nat) (hs : s.HasRoom a) : Effects 64 s (s.ownReadBus a b) := by
  refine effects_finished hs (f := fun u => if 63 < b then u.refuse a .badIndex [] else u.reply a .ok (u.bus b).words)
    fun u hu => ?_
  split
  · exact effects_refuse (.refl u) (by exact hu) _ _
  · exact effects_reply (.refl u) (by exact hu) _ _

theorem effects_ownAckBusEvents (s : State) (a : Ask) (b x : Nat) (hs : s.HasRoom a) : Effects 64 s (s.ownAckBusEvents a b x) := by
  refine effects_finished hs (f := fun u => if 63 < b then u.refuse a .badIndex []
    else match onOff? x with
      | none => u.refuse a .badOperand []
      | some c =>
        let x := u.bus b
        (u.setBus b { x with clipFlag := false, clipCount := if c then 0 else x.clipCount }).reply a .ok
          [wordNat x.clipCount]) fun u hu => ?_
  dsimp only
  split
  · exact effects_refuse (.refl u) (by exact hu) _ _
  · split
    · exact effects_refuse (.refl u) (by exact hu) _ _
    · exact effects_reply (effects_setBus u b _ (by rfl)) (by exact hu) _ _

/-! ### Kernel sets (R29 to R31) -/

theorem inUse_loading (k : KernelSet) : k.loading.inUse = k.inUse := by
  unfold KernelSet.loading
  split <;> rfl

theorem inUse_writeRows (k : KernelSet) (first count : Nat) (cs : List Int) : (k.writeRows first count cs).inUse = k.inUse := by
  unfold KernelSet.writeRows
  generalize List.range count = l
  induction l generalizing k with
  | nil => rfl
  | cons j l ih => exact (ih _).trans rfl

theorem effects_ownLoadKernelRows (s : State) (a : Ask) (k first count : Nat) (cs : List Int) (hs : s.HasRoom a) :
    Effects 64 s (s.ownLoadKernelRows a k first count cs) := by
  unfold State.ownLoadKernelRows
  dsimp only
  split
  · exact effects_refuse (.refl s) (by exact hs) _ _
  · split
    · exact effects_refuse (.refl s) (by exact hs) _ _
    · split
      · exact effects_refuse (.refl s) (by exact hs) _ _
      · split
        · exact effects_refuse (.refl s) (by exact hs) _ _
        · rename_i h
          refine effects_reply (.one (.kernel s k _ ?_ fun e g => absurd ⟨e, g⟩ h)) (by exact hs) _ _
          rw [inUse_writeRows, inUse_loading]

theorem effects_ownValidateKernelSet (s : State) (a : Ask) (k : Nat) (hs : s.HasRoom a) :
    Effects 64 s (s.ownValidateKernelSet a k) := by
  unfold State.ownValidateKernelSet
  dsimp only
  split
  · exact effects_refuse (.refl s) (by exact hs) _ _
  · split
    · exact effects_reply (.refl s) (by exact hs) _ _
    · exact effects_refuse (.refl s) (by exact hs) _ _
    · split
      · exact effects_refuse (.refl s) (by exact hs) _ _
      · split
        · exact effects_refuse (.refl s) (by exact hs) _ _
        · exact effects_reply (.one (.kernel s k _ (by rfl) (by exact fun _ _ => rfl))) (by exact hs) _ _

/-! ### Feeds (R48 to R73) -/

theorem entryCount_openFeed (s : State) (n rate k pages target : Nat) (auto : Bool) (ret : Link) (start : Option Time) :
    (s.openFeed n rate k pages target auto ret start).entryCount = s.entryCount := by
  have h : ∀ (t : State) (x : Feed), ((t.raiseInUse k).setFeed n x).entryCount = t.entryCount := fun _ _ => rfl
  unfold State.openFeed
  dsimp only
  rw [h, takePages_eq]
  rfl

theorem effects_ownOpenFeed (s : State) (a : Ask) (n rate k pages target auto ret : Nat) (start : Option Nat)
    (hs : s.HasRoom a) : Effects 64 s (s.ownOpenFeed a n rate k pages target auto ret start) := by
  unfold State.ownOpenFeed
  split
  · exact effects_refuse (.refl s) (by exact hs) _ _
  · split
    · exact effects_refuse (.refl s) (by exact hs) _ _
    · rename_i hn
      split
      · exact effects_refuse (.refl s) (by exact hs) _ _
      · rename_i hg
        split
        · split
          · exact effects_refuse (.refl s) (by exact hs) _ _
          · split
            · exact effects_refuse (.refl s) (by exact hs) _ _
            · rename_i hc
              split
              · exact effects_refuse (.refl s) (by exact hs) _ _
              · rename_i hk
                split
                · exact effects_refuse (.refl s) (by exact hs) _ _
                · rename_i hp
                  refine effects_reply (.one (.openFeed s n rate k pages target _ _ _ (by decide)
                    (Nat.lt_succ_of_le (Nat.not_lt.1 hn)) (not_not.1 hc) ?_ ⟨?_, Nat.not_lt.1 hp⟩))
                    (fun e => (entryCount_openFeed s _ _ _ _ _ _ _ _).trans_lt (hs e)) _ _
                  · unfold State.kernelReady at hk
                    simpa using hk
                  · omega
        · exact effects_refuse (.refl s) (by exact hs) _ _

theorem entryCount_drainFeed (s : State) (n : Nat) : (s.drainFeed n).entryCount = s.entryCount := by
  unfold State.drainFeed
  dsimp only
  split
  · rfl
  · split
    · exact entryCount_closeFeed s n
    · rfl

theorem effects_ownCloseFeed (s : State) (a : Ask) (n mode : Nat) (hs : s.HasRoom a) :
    Effects 64 s (s.ownCloseFeed a n mode) := by
  unfold State.ownCloseFeed
  split
  · exact effects_refuse (.refl s) (by exact hs) _ _
  · split
    · exact effects_refuse (.refl s) (by exact hs) _ _
    · rename_i m _
      dsimp only
      split
      · exact effects_refuse (.refl s) (by exact hs) _ _
      · rename_i h
        cases m
        · exact effects_reply (.one (.close s n h)) (fun e => (entryCount_closeFeed s n).trans_lt (hs e)) _ _
        · exact (effects_reply (effects_drainFeed s n h) (fun e => (entryCount_drainFeed s n).trans_lt (hs e)) _ _).andThen
            (effects_drainEvent _ _ _).widen

theorem entryCount_retune (s : State) (n rate k : Nat) : (s.retune n rate k).entryCount = s.entryCount := by
  unfold State.retune State.moveInUse
  dsimp only
  split <;> rfl

theorem effects_ownRetuneFeed (s : State) (a : Ask) (n rate : Nat) (k : Option Nat) (hs : s.HasRoom a) :
    Effects 64 s (s.ownRetuneFeed a n rate k) := by
  unfold State.ownRetuneFeed
  dsimp only
  split
  · exact effects_refuse (.refl s) (by exact hs) _ _
  · rename_i hn
    split
    · exact effects_refuse (.refl s) (by exact hs) _ _
    · split
      · exact effects_refuse (.refl s) (by exact hs) _ _
      · split
        · exact effects_refuse (.refl s) (by exact hs) _ _
        · rename_i hc
          split
          · exact effects_refuse (.refl s) (by exact hs) _ _
          · rename_i hk
            refine effects_reply (.one (.retune s n rate _ (by decide) (Nat.lt_succ_of_le (Nat.not_lt.1 hn)) hc ?_))
              (fun e => (entryCount_retune s _ _ _).trans_lt (hs e)) _ _
            cases k with
            | none => exact Or.inl rfl
            | some k =>
              refine Or.inr ?_
              simp only [Option.any_some, Bool.not_eq_true', Bool.not_eq_false] at hk
              exact of_decide_eq_true hk

theorem effects_ownSetFeedTarget (s : State) (a : Ask) (n target : Nat) (hs : s.HasRoom a) :
    Effects 64 s (s.ownSetFeedTarget a n target) := by
  unfold State.ownSetFeedTarget
  dsimp only
  split
  · exact effects_refuse (.refl s) (by exact hs) _ _
  · split
    · exact effects_refuse (.refl s) (by exact hs) _ _
    · refine effects_reply (effects_setFeed s n
        { s.feed n with target := clampTarget (s.feed n).capacity target }.resetServo
        ⟨rfl, rfl, Iff.rfl, id, fun b => ⟨b.1, (Int.add_zero _).symm, ?_, Int.natCast_nonneg _⟩⟩) (by exact hs) _ _
      exact Int.neg_nonpos_of_nonneg (Int.natCast_nonneg _)

theorem entryCount_sendFlow (s : State) (n : Nat) (p : Bool) : (s.sendFlow n p).entryCount = s.entryCount := by
  unfold State.sendFlow State.handFlow
  dsimp only
  repeat' split
  all_goals rfl

theorem effects_hold (s : State) (n : Nat) : Effects 64 s (s.hold n) := by
  unfold State.hold
  dsimp only
  have h := effects_sendFlow (m := 64) s n true
  generalize s.sendFlow n true = u at h ⊢
  exact h.andThen (effects_setFeed u n { u.feed n with hold := true, paused := true, parity := false } ⟨rfl, rfl, Iff.rfl, id, id⟩)

theorem effects_release (s : State) (n : Nat) : Effects 64 s (s.release n) := by
  unfold State.release
  dsimp only
  split
  · have h := effects_sendFlow (m := 64) s n false
    generalize s.sendFlow n false = u at h ⊢
    exact h.andThen (effects_setFeed u n { u.feed n with hold := false, paused := false } ⟨rfl, rfl, Iff.rfl, id, id⟩)
  · exact effects_setFeed s n { s.feed n with hold := false } ⟨rfl, rfl, Iff.rfl, id, id⟩

theorem entryCount_release (s : State) (n : Nat) : (s.release n).entryCount = s.entryCount := by
  unfold State.release
  dsimp only
  split
  · exact entryCount_sendFlow s n false
  · rfl

theorem effects_ownHoldFeed (s : State) (a : Ask) (n : Nat) (hs : s.HasRoom a) : Effects 64 s (s.ownHoldFeed a n) := by
  unfold State.ownHoldFeed
  dsimp only
  split
  · exact effects_refuse (.refl s) (by exact hs) _ _
  · split
    · exact effects_refuse (.refl s) (by exact hs) _ _
    · exact effects_reply (effects_hold s n) (fun e => (entryCount_sendFlow s n true).trans_lt (hs e)) _ _

theorem effects_ownReleaseFeed (s : State) (a : Ask) (n : Nat) (hs : s.HasRoom a) : Effects 64 s (s.ownReleaseFeed a n) := by
  unfold State.ownReleaseFeed
  dsimp only
  split
  · exact effects_refuse (.refl s) (by exact hs) _ _
  · split
    · exact effects_refuse (.refl s) (by exact hs) _ _
    · exact effects_reply (effects_release s n) (fun e => (entryCount_release s n).trans_lt (hs e)) _ _

theorem effects_ownReadFeed (s : State) (a : Ask) (n part : Nat) (hs : s.HasRoom a) : Effects 64 s (s.ownReadFeed a n part) := by
  unfold State.ownReadFeed
  split
  · exact effects_refuse (.refl s) (by exact hs) _ _
  · split
    · exact effects_refuse (.refl s) (by exact hs) _ _
    · exact effects_reply (.refl s) (by exact hs) _ _

theorem effects_ownAckFeedEvents (s : State) (a : Ask) (n x : Nat) (hs : s.HasRoom a) :
    Effects 64 s (s.ownAckFeedEvents a n x) := by
  unfold State.ownAckFeedEvents
  split
  · exact effects_refuse (.refl s) (by exact hs) _ _
  · split
    · exact effects_refuse (.refl s) (by exact hs) _ _
    · rename_i c _
      exact effects_reply (effects_setFeed s n ((s.feed n).acked c) (by cases c <;> exact ⟨rfl, rfl, Iff.rfl, id, id⟩)) (by exact hs) _ _

/-! ### Pool, cues, classifier (R83, R87 to R99, R107, R108, R113) -/

theorem effects_ownReadPool (s : State) (a : Ask) (part : Nat) (n : Option Nat) (hs : s.HasRoom a) :
    Effects 64 s (s.ownReadPool a part n) := by
  unfold State.ownReadPool
  split
  · exact effects_refuse (.refl s) (by exact hs) _ _
  · split
    · exact effects_reply (.refl s) (by exact hs) _ _
    · exact effects_refuse (.refl s) (by exact hs) _ _

theorem effects_ownCancelCues (s : State) (a : Ask) (tag : Nat) (hs : s.HasRoom a) : Effects 64 s (s.ownCancelCues a tag) :=
  effects_reply (.one (.cues s _ List.filter_sublist)) (by exact hs) _ _

theorem effects_ownReadCues (s : State) (a : Ask) (hs : s.HasRoom a) : Effects 64 s (s.ownReadCues a) :=
  effects_reply (.refl s) (by exact hs) _ _

theorem effects_ownSetLateTolerance (s : State) (a : Ask) (n : Nat) (hs : s.HasRoom a) :
    Effects 64 s (s.ownSetLateTolerance a n) := effects_reply (effects_quiet (by rfl)) (by exact hs) _ _

theorem effects_insertTimed (s : State) (a : Ask) (t : Time) (c : CueCommand) (he : s.engine = .run) (hs : s.HasRoom a) :
    Effects 64 s (s.insertTimed a t c) := by
  unfold State.insertTimed
  dsimp only
  split
  · exact effects_refuse (.refl s) (by exact hs) _ _
  · split
    · exact effects_refuse (.refl s) (by exact hs) _ _
    · rename_i h
      exact effects_reply (.one (.cue s _ (by decide) he (Nat.not_le.1 h))) (by exact hs) _ _

theorem effects_cueArrival (s : State) (i : Instr) (h : Hdr) (t : Time) (hs : h.acked = true → s.entryCount < 64) :
    Effects 64 s (s.cueArrival i h t) := by
  unfold State.cueArrival
  split
  · exact effects_refuse (.refl s) (by exact hs) _ _
  · split
    · exact effects_refuse (.refl s) (by exact hs) _ _
    · rename_i he
      split
      · exact effects_refuse (.refl s) (by exact hs) _ _
      · split
        · exact effects_refuse (.refl s) (by exact hs) _ _
        · split
          · exact effects_refuse (.refl s) (by exact hs) _ _
          · exact effects_insertTimed s _ t _ (not_not.1 he) hs

theorem effects_ownSetWindow (s : State) (a : Ask) (w e f b m t d c : Nat) (hs : s.HasRoom a) :
    Effects 64 s (s.ownSetWindow a w e f b m t d c) := by
  unfold State.ownSetWindow
  split
  · exact effects_refuse (.refl s) (by exact hs) _ _
  · split
    · split
      · exact effects_refuse (.refl s) (by exact hs) _ _
      · exact effects_reply (effects_setWindow s w _) (by exact hs) _ _
    · exact effects_refuse (.refl s) (by exact hs) _ _

theorem effects_ownReadWindow (s : State) (a : Ask) (w c : Nat) (hs : s.HasRoom a) : Effects 64 s (s.ownReadWindow a w c) := by
  unfold State.ownReadWindow
  split
  · exact effects_refuse (.refl s) (by exact hs) _ _
  · split
    · exact effects_refuse (.refl s) (by exact hs) _ _
    · exact effects_reply (effects_setWindow s w _) (by exact hs) _ _

theorem effects_ownSetDefaultRule (s : State) (a : Ask) (l v f c : Nat) (hs : s.HasRoom a) :
    Effects 64 s (s.ownSetDefaultRule a l v f c) := by
  unfold State.ownSetDefaultRule
  split
  · exact effects_refuse (.refl s) (by exact hs) _ _
  · split
    · exact effects_refuse (.refl s) (by exact hs) _ _
    · split
      · exact effects_reply (effects_defaults s _) (by exact hs) _ _
      · exact effects_refuse (.refl s) (by exact hs) _ _

theorem effects_ownReadDefaultRule (s : State) (a : Ask) (l c : Nat) (hs : s.HasRoom a) :
    Effects 64 s (s.ownReadDefaultRule a l c) := by
  unfold State.ownReadDefaultRule
  split
  · exact effects_refuse (.refl s) (by exact hs) _ _
  · split
    · exact effects_refuse (.refl s) (by exact hs) _ _
    · exact effects_reply (effects_defaults s _) (by exact hs) _ _


/-! ### Tables (R117 to R127) -/

theorem effects_ownAssignBank (s : State) (a : Ask) (b t : Nat) (hs : s.HasRoom a) : Effects 64 s (s.ownAssignBank a b t) := by
  unfold State.ownAssignBank
  split
  · exact effects_refuse (.refl s) (by exact hs) _ _
  · split
    · exact effects_refuse (.refl s) (by exact hs) _ _
    · rename_i hb
      split
      · exact effects_refuse (.refl s) (by exact hs) _ _
      · rename_i t _
        split
        · exact effects_refuse (.refl s) (by exact hs) _ _
        · rename_i hf
          exact effects_reply (.one (.bank s b t (by decide) (Nat.lt_succ_of_le (Nat.not_lt.1 hb)) (Bool.eq_false_iff.2 hf)))
            (by cases t <;> exact hs) _ _

theorem effects_stage {m : Nat} (s : State) (l : Link) (i : Image) : Effects m s (s.stage l i) := effects_quiet rfl

theorem effects_ownStageRule (s : State) (a : Ask) (k st : Nat) (key : NarrowKey) (w : Option WideKey) (v f : Nat)
    (hs : s.HasRoom a) : Effects 64 s (s.ownStageRule a k st key w v f) := by
  unfold State.ownStageRule
  split
  · exact effects_refuse (.refl s) (by exact hs) _ _
  · split
    · exact effects_refuse (.refl s) (by exact hs) _ _
    · exact effects_reply (effects_stage s _ _) (by exact hs) _ _

theorem effects_ownStageRoute (s : State) (a : Ask) (f b p g : Nat) (hs : s.HasRoom a) :
    Effects 64 s (s.ownStageRoute a f b p g) := by
  unfold State.ownStageRoute
  split
  · exact effects_refuse (.refl s) (by exact hs) _ _
  · split
    · exact effects_refuse (.refl s) (by exact hs) _ _
    · exact effects_reply (effects_stage s _ _) (by exact hs) _ _

theorem effects_ownClearStaging (s : State) (a : Ask) (hs : s.HasRoom a) : Effects 64 s (s.ownClearStaging a) :=
  effects_reply (effects_stage s _ _) (by exact hs) _ _

/-- Only the slots may differ. -/
def State.OnlySlots (s t : State) : Prop := t = { s with slots := t.slots }

theorem onlySlots_refl (s : State) : s.OnlySlots s := rfl

theorem onlySlots_trans {s t u : State} (h : s.OnlySlots t) (g : t.OnlySlots u) : s.OnlySlots u := by
  unfold State.OnlySlots at h g ⊢
  rw [g, h]

theorem onlySlots_setEntry (s : State) (t : TableId) (i : Nat) (x : Slot) : s.OnlySlots (s.setEntry t i x) := rfl

theorem onlySlots_foldl {β : Type} (f : State → β → State) (h : ∀ (s : State) (b : β), s.OnlySlots (f s b)) :
    ∀ (l : List β) (s : State), s.OnlySlots (l.foldl f s)
  | [], s => onlySlots_refl s
  | b :: l, s => onlySlots_trans (h s b) (onlySlots_foldl f h l (f s b))

theorem onlySlots_emptySlots (s : State) (t : TableId) (is : List Nat) : s.OnlySlots (s.emptySlots t is) :=
  onlySlots_foldl (fun u j => u.setEntry t j .empty) (fun u j => onlySlots_setEntry u t j .empty) _ _

theorem onlySlots_putImage (s : State) (t : TableId) (i : Nat) (img : Image) : s.OnlySlots (s.putImage t i img) := by
  have h := onlySlots_emptySlots s t (s.touched t i img)
  cases img with
  | empty => exact h
  | narrow act k v f => exact onlySlots_trans h (onlySlots_setEntry _ t i _)
  | wide act k w v f => exact onlySlots_trans (onlySlots_trans h (onlySlots_setEntry _ t i _)) (onlySlots_setEntry _ t (i + 1) _)
  | route f b p g => exact onlySlots_trans h (onlySlots_setEntry _ t i _)

theorem onlySlots_carry (s : State) (t : TableId) (o : Int) (js : List Nat) : s.OnlySlots (s.carry t o js) :=
  onlySlots_foldl (fun u j => (u.setEntry t (shifted o j) (s.entry t j)).setEntry t j .empty) (fun _ _ => rfl) _ _

theorem entryCount_onlySlots {s t : State} (h : s.OnlySlots t) : t.entryCount = s.entryCount := by
  have e := congrArg State.entryCount h
  exact e

theorem block_onlySlots {s t : State} (h : s.OnlySlots t) : t.block = s.block := by
  have e := congrArg State.block h
  exact e

/-- What a command does with a table, it does between instants where it is the route table. -/
theorem effects_betweenThen {s : State} {a : Ask} (hs : s.HasRoom a) (t : TableId) {f : State → State}
    (h : ∀ u : State, u.HasRoom a → Effects 64 u (f u)) : Effects 64 s (f (s.between t)) :=
  (effects_between s t).widen.andThen (h _ fun e => (effects_between s t).room (hs e))

theorem effects_ownWriteEntry (s : State) (a : Ask) (t i : Nat) (hs : s.HasRoom a) : Effects 64 s (s.ownWriteEntry a t i) := by
  unfold State.ownWriteEntry
  split
  · exact effects_refuse (.refl s) (by exact hs) _ _
  · rename_i t _
    refine effects_betweenThen hs t (f := fun u =>
      if u.tableSize t ≤ i then u.refuse a .badIndex []
      else if !(u.staging.get a.link).fits t then u.refuse a .wrongTable []
      else if (u.staging.get a.link).isWide && decide (i % 2 = 1) then u.refuse a .badAlignment []
      else if u.locked t (u.touched t i (u.staging.get a.link)) then u.refuse a .blockRange []
      else if decide ((u.staging.get a.link) ≠ .empty) && (u.touched t i (u.staging.get a.link)).any (u.activeAt t) then
        u.refuse a .occupied []
      else if u.duplicates (u.staging.get a.link) then u.refuse a .duplicateRoute []
      else (u.putImage t i (u.staging.get a.link)).reply a .ok (u.writtenWords t i (u.staging.get a.link))) fun u hu => ?_
    split
    · exact effects_refuse (.refl u) (by exact hu) _ _
    · rename_i hi
      split
      · exact effects_refuse (.refl u) (by exact hu) _ _
      · rename_i hf
        split
        · exact effects_refuse (.refl u) (by exact hu) _ _
        · rename_i hw
          iterate 2
            split
            · exact effects_refuse (.refl u) (by exact hu) _ _
          split
          · exact effects_refuse (.refl u) (by exact hu) _ _
          · rename_i hd
            refine effects_reply (.one (.image u t i _ (by decide) fun _ => ⟨Nat.lt_of_not_le hi, by simpa using hf, ?_,
              Bool.eq_false_iff.2 hd⟩)) (fun e => (entryCount_onlySlots (onlySlots_putImage u t i _)).trans_lt (hu e)) _ _
            intro h
            rw [h, Bool.true_and, decide_eq_true_eq] at hw
            omega

theorem effects_ownReadEntry (s : State) (a : Ask) (t i : Nat) (hs : s.HasRoom a) : Effects 64 s (s.ownReadEntry a t i) := by
  unfold State.ownReadEntry
  split
  · exact effects_refuse (.refl s) (by exact hs) _ _
  · rename_i t _
    refine effects_betweenThen hs t (f := fun u =>
      if u.tableSize t ≤ i then u.refuse a .badIndex []
      else (u.stage a.link (u.imageAt t i)).reply a .ok (u.entryWords t i)) fun u hu => ?_
    split
    · exact effects_refuse (.refl u) (by exact hu) _ _
    · exact effects_reply (effects_stage u _ _) (by exact hu) _ _

theorem effects_setRuleActive (s : State) (a : Ask) (i : Nat) (act : Bool) (hs : s.HasRoom a) :
    Effects 64 s (s.setRuleActive a i act) := by
  unfold State.setRuleActive
  split
  · exact effects_refuse (.refl s) (by exact hs) _ _
  · split
    · exact effects_refuse (.refl s) (by exact hs) _ _
    · split
      · exact effects_refuse (.refl s) (by exact hs) _ _
      · exact effects_reply (effects_setEntry s _ _ _ (alike_withActive _ _)) (by exact hs) _ _

/-! ### The block operation (R129 to R139) -/

theorem effects_endBlock (s : State) (b : Block) (st : Status) (n : Option Nat) (r : Nat) (hb : s.block = some b) :
    Effects 64 s (s.endBlock b st n r) := by
  unfold State.endBlock
  dsimp only
  split
  · rename_i ha
    exact .one (.blockEnds s b _ (by decide) hb ha)
  · rename_i ha
    exact (Effects.one (.blockLeaves s b (by decide) hb (Bool.eq_false_iff.2 ha))).andThen (effects_event _ _ _ _ _ _).widen

/-- A step over `n` slots that is not the last leaves a sound context; a FILL of a wide rule steps by an even number. -/
theorem sound_advance {s : State} {b : Block} {n : Nat} (h : s.BlockSound b) (hr : (b.advance n).remaining ≠ 0)
    (he : b.kind = .fill → b.image.isWide = true → n % 2 = 0) : s.BlockSound (b.advance n) := by
  obtain ⟨h1, h2, h3, h4, h5, h6, h7, h8⟩ := h
  have e : (b.advance n).remaining = b.remaining - n := rfl
  refine ⟨Nat.pos_of_ne_zero hr, h2, ?_, (Nat.sub_le _ _).trans h4, h5, fun hk => ⟨(h6 hk).1, (h6 hk).2.1, fun hw => ?_⟩, h7, h8⟩
  · show if b.descending then (if b.descending then b.next - n else b.next + n) + 1 = b.first + (b.remaining - n)
      else (if b.descending then b.next - n else b.next + n) + (b.remaining - n) = b.first + b.count
    split at h3
    · rename_i hd
      rw [if_pos hd, if_pos hd]
      omega
    · rename_i hd
      rw [if_neg hd, if_neg hd]
      omega
  · have hd := h7 (Or.inl hk)
    have h9 := (h6 hk).2.2 hw
    have h10 := he hk hw
    show (if b.descending then b.next - n else b.next + n) % 2 = 0 ∧ (b.remaining - n) % 2 = 0
    rw [if_neg (Bool.eq_false_iff.1 hd)]
    omega

theorem effects_stepDone (s : State) (b : Block) (n : Nat) (hb : s.block = some b)
    (he : b.kind = .fill → b.image.isWide = true → n % 2 = 0) : Effects 64 s (s.stepDone b n) := by
  unfold State.stepDone
  split
  · exact effects_endBlock s b _ _ _ hb
  · rename_i hr
    exact .one (.blockTurns s b _ (by decide) hb rfl fun h => sound_advance h hr he)

theorem effects_stopBlock (s : State) (b : Block) (r : StopReason) (js : List Nat) (hb : s.block = some b) :
    Effects 64 s (s.stopBlock b r js) :=
  (Effects.one (.blockTurns s b { b with phase := .stopped r _ js } (by decide) hb rfl id)).andThen (effects_event _ _ _ _ _ _).widen

theorem effects_moveStep (s : State) (b : Block) (hb : s.block = some b) (hk : b.kind = .move) : Effects 64 s (s.moveStep b) := by
  have hn : b.kind = .fill → False := fun e => nomatch hk.symm.trans e
  unfold State.moveStep
  dsimp only
  split
  · exact effects_stepDone s b _ hb fun e => (hn e).elim
  · split
    · rename_i hf
      refine (Effects.one (.carry s b (by decide) hb hk fun j hj => ?_)).andThen
        (effects_stepDone _ b _ ((block_onlySlots (onlySlots_carry s _ _ _)).trans hb) fun e => (hn e).elim)
      have h := List.filter_eq_nil_iff.1 hf _ (List.mem_map_of_mem hj)
      exact not_not.1 fun e => h (decide_eq_true e)
    · exact effects_stopBlock s b _ _ hb

theorem covers_length {img : Image} (i : Nat) (h : img.isWide = true) : (img.covers i).length = 2 := by
  unfold Image.covers
  rw [if_pos h]
  rfl

theorem effects_fillStep (s : State) (b : Block) (hb : s.block = some b) (hk : b.kind = .fill) : Effects 64 s (s.fillStep b) := by
  unfold State.fillStep
  dsimp only
  generalize (if b.image = Image.empty then [] else (b.image.covers b.next).filter (s.activeAt b.table)) = l
  split
  · refine (Effects.one (.image s b.table b.next b.image (by decide) fun h => ?_)).andThen
      (effects_stepDone _ b _ ((block_onlySlots (onlySlots_putImage s _ _ _)).trans hb) fun _ hw => by rw [covers_length _ hw])
    obtain ⟨h1, h2, h3, _, _, h6, h7, _⟩ := h b hb
    rw [if_neg (Bool.eq_false_iff.1 (h7 (Or.inl hk)))] at h3
    refine ⟨by omega, (h6 hk).1, fun hw => ((h6 hk).2.2 hw).1, ?_⟩
    have h9 := (h6 hk).1
    cases e : b.table with
    | route => rw [(h6 hk).2.1 e]; rfl
    | admission =>
      rw [e] at h9
      generalize b.image = img at h9 ⊢
      cases img with
      | route => exact nomatch h9
      | _ => rfl
  · exact effects_stopBlock s b _ _ hb

theorem effects_scanStep (s : State) (b : Block) (hb : s.block = some b) (hk : b.kind = .scan) : Effects 64 s (s.scanStep b) := by
  unfold State.scanStep
  split
  · exact effects_endBlock s b _ _ _ hb
  · exact effects_stepDone s b _ hb fun e => nomatch hk.symm.trans e

theorem effects_clearHitsStep (s : State) (b : Block) (hb : s.block = some b) (hk : b.kind = .clearHits) :
    Effects 64 s (s.clearHitsStep b) := by
  unfold State.clearHitsStep
  exact (effects_setEntry s _ _ _ (alike_withHits _ _)).andThen (effects_stepDone _ b _ hb fun e => nomatch hk.symm.trans e)

/-- Nothing inside an instant changes the block context, the engine state or the held place. -/
theorem Effect.held {s t : State} (h : Effect 56 s t) :
    t.block = s.block ∧ t.engine = s.engine ∧ t.heldPlace = s.heldPlace := by
  cases h with
  | quiet _ h =>
    exact ⟨(congrArg State.block h :), (congrArg State.engine h :), (congrArg State.heldPlace h :)⟩
  | close n _ => rw [closeFeed_eq]; exact ⟨rfl, rfl, rfl⟩
  | image _ _ _ hm => exact absurd hm (by decide)
  | carry _ hm => exact absurd hm (by decide)
  | cue _ hm => exact absurd hm (by decide)
  | openFeed _ _ _ _ _ _ _ _ hm => exact absurd hm (by decide)
  | retune _ _ _ hm => exact absurd hm (by decide)
  | exchange _ _ hm => exact absurd hm (by decide)
  | bank _ _ hm => exact absurd hm (by decide)
  | blockStarts _ hm => exact absurd hm (by decide)
  | blockTurns _ _ hm => exact absurd hm (by decide)
  | blockEnds _ _ hm => exact absurd hm (by decide)
  | blockLeaves _ hm => exact absurd hm (by decide)
  | starts hm => exact absurd hm (by decide)
  | stops hm => exact absurd hm (by decide)
  | resets _ hm => exact absurd hm (by decide)
  | _ => exact ⟨rfl, rfl, rfl⟩

theorem Effects.held {s t : State} (h : Effects 56 s t) :
    t.block = s.block ∧ t.engine = s.engine ∧ t.heldPlace = s.heldPlace := by
  induction h with
  | refl => exact ⟨rfl, rfl, rfl⟩
  | tail _ h ih => exact ⟨h.held.1.trans ih.1, h.held.2.1.trans ih.2.1, h.held.2.2.trans ih.2.2⟩

theorem effects_blockStep (s : State) (k : BlockKind) (f : State → Block → State)
    (hf : ∀ (u : State) (b : Block), u.block = some b → b.kind = k → Effects 64 u (f u b)) : Effects 64 s (s.blockStep k f) := by
  unfold State.blockStep
  split
  · rename_i b hb
    split
    · rename_i h
      exact (effects_between s _).widen.andThen (hf _ b ((effects_between s _).held.1.trans hb) h.1)
    · exact .refl s
  · exact .refl s

theorem effects_startBlock (s : State) (a : Ask) (b : Block) (hs : s.HasRoom a) (hn : ¬ s.block.isSome = true)
    (ha : b.acked = a.acked) (hb : s.BlockSound b) : Effects 64 s (s.startBlock a b) := by
  unfold State.startBlock
  rw [← ha]
  exact .one (.blockStarts s b (by decide) (by simpa using hn) (fun e => hs (ha ▸ e)) hb)

theorem effects_ownMove (s : State) (a : Ask) (t x y n : Nat) (hs : s.HasRoom a) : Effects 64 s (s.ownMove a t x y n) := by
  unfold State.ownMove
  split
  · exact effects_refuse (.refl s) (by exact hs) _ _
  · rename_i hn
    split
    · exact effects_refuse (.refl s) (by exact hs) _ _
    · rename_i t _
      split
      · exact effects_refuse (.refl s) (by exact hs) _ _
      · rename_i h0
        split
        · exact effects_refuse (.refl s) (by exact hs) _ _
        · rename_i h1
          split
          · exact effects_refuse (.refl s) (by exact hs) _ _
          · rename_i h2
            split
            · exact effects_refuse (.refl s) (by exact hs) _ _
            · rename_i h3
              split
              · exact effects_refuse (.refl s) (by exact hs) _ _
              · refine effects_startBlock s a _ hs hn rfl ⟨Nat.pos_of_ne_zero h0, ?_, ?_, Nat.le_refl _,
                  fun _ => ⟨?_, ?_, ?_, fun e => ?_⟩, (fun e => nomatch e), fun e => ?_, (fun e => nomatch e)⟩
                · show x + n ≤ s.tableSize t
                  omega
                · show if decide (x < y) = true then (if x < y then x + n - 1 else x) + 1 = x + n
                    else (if x < y then x + n - 1 else x) + n = x + n
                  by_cases h : x < y
                  · rw [if_pos (decide_eq_true h), if_pos h]
                    omega
                  · rw [if_neg (fun e => h (of_decide_eq_true e)), if_neg h]
                · show 0 ≤ (x : Int) + ((y : Int) - x)
                  omega
                · show (x : Int) + n + ((y : Int) - x) ≤ s.tableSize t
                  omega
                · show (y : Int) - x ≠ 0
                  omega
                · have h4 : ¬ (y + x) % 2 = 1 := fun h => h3 ⟨e, h⟩
                  show ((y : Int) - x) % 2 = 0
                  omega
                · rcases e with e | e | e <;> exact nomatch e

theorem effects_ownFill (s : State) (a : Ask) (t x n : Nat) (hs : s.HasRoom a) : Effects 64 s (s.ownFill a t x n) := by
  unfold State.ownFill
  dsimp only
  split
  · exact effects_refuse (.refl s) (by exact hs) _ _
  · rename_i hn
    split
    · exact effects_refuse (.refl s) (by exact hs) _ _
    · rename_i t _
      split
      · exact effects_refuse (.refl s) (by exact hs) _ _
      · rename_i h0
        split
        · exact effects_refuse (.refl s) (by exact hs) _ _
        · rename_i h1
          split
          · exact effects_refuse (.refl s) (by exact hs) _ _
          · rename_i h2
            split
            · exact effects_refuse (.refl s) (by exact hs) _ _
            · rename_i h3
              split
              · exact effects_refuse (.refl s) (by exact hs) _ _
              · rename_i h4
                split
                · exact effects_refuse (.refl s) (by exact hs) _ _
                · refine effects_startBlock s a _ hs hn rfl ⟨Nat.pos_of_ne_zero h0, ?_, ?_, Nat.le_refl _, (fun e => nomatch e),
                    fun _ => ⟨(by simpa using h2 : (s.staging.get a.link).fits t = true), fun e => not_not.1 fun h => h3 ⟨e, h⟩, fun e => ?_⟩, fun _ => rfl,
                    (fun e => nomatch e)⟩
                  · show x + n ≤ s.tableSize t
                    omega
                  · show x + n = x + n
                    rfl
                  · have h5 : ¬ (x % 2 = 1 ∨ n % 2 = 1) := fun h => h4 ⟨e, h⟩
                    show x % 2 = 0 ∧ n % 2 = 0
                    omega

theorem effects_ownScan (s : State) (a : Ask) (t x n sel m : Nat) (hs : s.HasRoom a) :
    Effects 64 s (s.ownScan a t x n sel m) := by
  unfold State.ownScan
  dsimp only
  split
  · exact effects_refuse (.refl s) (by exact hs) _ _
  · rename_i hn
    split
    · rename_i t _ _ _
      split
      · exact effects_refuse (.refl s) (by exact hs) _ _
      · rename_i h0
        split
        · exact effects_refuse (.refl s) (by exact hs) _ _
        · rename_i h1
          iterate 5
            split
            · exact effects_refuse (.refl s) (by exact hs) _ _
          exact effects_startBlock s a _ hs hn rfl ⟨Nat.pos_of_ne_zero h0, Nat.le_of_not_lt h1, rfl, Nat.le_refl _,
            (fun e => nomatch e), (fun e => nomatch e), fun _ => rfl, (fun e => nomatch e)⟩
    · exact effects_refuse (.refl s) (by exact hs) _ _

theorem effects_ownClearHits (s : State) (a : Ask) (x n : Nat) (hs : s.HasRoom a) : Effects 64 s (s.ownClearHits a x n) := by
  unfold State.ownClearHits
  split
  · exact effects_refuse (.refl s) (by exact hs) _ _
  · rename_i hn
    split
    · exact effects_refuse (.refl s) (by exact hs) _ _
    · rename_i h0
      split
      · exact effects_refuse (.refl s) (by exact hs) _ _
      · rename_i h1
        split
        · exact effects_refuse (.refl s) (by exact hs) _ _
        · exact effects_startBlock s a _ hs hn rfl ⟨Nat.pos_of_ne_zero h0, Nat.le_of_not_lt h1, rfl, Nat.le_refl _,
            (fun e => nomatch e), (fun e => nomatch e), fun _ => rfl, fun _ => rfl⟩

theorem effects_setPhase (s : State) (a : Ask) (b : Block) (p : BlockPhase) (hb : s.block = some b) (hs : s.HasRoom a) :
    Effects 64 s (s.setPhase a b p) :=
  effects_reply (.one (.blockTurns s b { b with phase := p } (by decide) hb rfl id)) (by exact hs) _ _

theorem effects_ownSuspendBlock (s : State) (a : Ask) (hs : s.HasRoom a) : Effects 64 s (s.ownSuspendBlock a) := by
  unfold State.ownSuspendBlock
  split
  · exact effects_refuse (.refl s) (by exact hs) _ _
  · exact effects_setPhase s a _ _ ‹_› hs

theorem effects_ownResumeBlock (s : State) (a : Ask) (hs : s.HasRoom a) : Effects 64 s (s.ownResumeBlock a) := by
  unfold State.ownResumeBlock
  split
  · exact effects_refuse (.refl s) (by exact hs) _ _
  · exact effects_setPhase s a _ _ ‹_› hs

theorem block_reply (s : State) (a : Ask) (st : Status) (ws : List Word) : (s.reply a st ws).block = s.block := by
  unfold State.reply
  split <;> rfl

theorem effects_ownAbandonBlock (s : State) (a : Ask) (hs : s.HasRoom a) : Effects 64 s (s.ownAbandonBlock a) := by
  unfold State.ownAbandonBlock
  split
  · exact effects_refuse (.refl s) (by exact hs) _ _
  · rename_i b hb
    exact (effects_reply (.refl s) (by exact hs) _ _).andThen (effects_endBlock _ b _ _ _ ((block_reply s a _ _).trans hb))

/-! ### Taking a command (R157 to R164) -/

theorem effects_enterStarting (s : State) (low : Bool) (c : Nat) : Effects 64 s (s.enterStarting low c) :=
  .one (.resets s _ (by decide) rfl (fun h => nomatch h) (Nat.zero_le _))

theorem effects_endStarting (s : State) : Effects 64 s s.endStarting := by
  unfold State.endStarting
  split
  · rename_i h
    have e : State.reset.rstnLow = false := rfl
    exact .one (.resets s _ (by decide) rfl (fun h => nomatch h) (Nat.le_refl _))
  · exact .refl s

theorem effects_own (s : State) (i : Instr) (a : Ask) (hs : s.HasRoom a) : Effects 64 s (s.own i a) := by
  cases i with
  | startEngine => exact effects_ownStartEngine s a hs
  | stopEngine => exact effects_ownStopEngine s a hs
  | resetDevice => exact effects_enterStarting s _ _
  | setHouseRate => exact effects_ownSetHouseRate s a _ hs
  | setHouseTime => exact effects_ownSetHouseTime s a _ hs
  | setLinkFraming => exact effects_ownSetLinkFraming s a _ _ hs
  | readTime => exact effects_ownReadTime s a hs
  | setRouteGain => exact effects_ownSetRouteGain s a _ _ _ hs
  | enableBus => exact effects_ownEnableBus s a _ hs
  | disableBus => exact effects_ownDisableBus s a _ hs
  | setBusTrim => exact effects_ownSetBusTrim s a _ _ hs
  | setBusMute => exact effects_ownSetBusMute s a _ _ hs
  | setBusMode => exact effects_ownSetBusMode s a _ _ _ hs
  | setBusDelay => exact effects_ownSetBusDelay s a _ _ hs
  | setBusLink => exact effects_ownSetBusLink s a _ _ hs
  | readBus => exact effects_ownReadBus s a _ hs
  | ackBusEvents => exact effects_ownAckBusEvents s a _ _ hs
  | loadKernelRows => exact effects_ownLoadKernelRows s a _ _ _ _ hs
  | validateKernelSet => exact effects_ownValidateKernelSet s a _ hs
  | openFeed => exact effects_ownOpenFeed s a _ _ _ _ _ _ _ _ hs
  | closeFeed => exact effects_ownCloseFeed s a _ _ hs
  | retuneFeed => exact effects_ownRetuneFeed s a _ _ _ hs
  | setFeedTarget => exact effects_ownSetFeedTarget s a _ _ hs
  | holdFeed => exact effects_ownHoldFeed s a _ hs
  | releaseFeed => exact effects_ownReleaseFeed s a _ hs
  | readFeed => exact effects_ownReadFeed s a _ _ hs
  | ackFeedEvents => exact effects_ownAckFeedEvents s a _ _ hs
  | readPool => exact effects_ownReadPool s a _ _ hs
  | cancelCues => exact effects_ownCancelCues s a _ hs
  | readCues => exact effects_ownReadCues s a hs
  | setLateTolerance => exact effects_ownSetLateTolerance s a _ hs
  | setWindow => exact effects_ownSetWindow s a _ _ _ _ _ _ _ _ hs
  | readWindow => exact effects_ownReadWindow s a _ _ hs
  | setDefaultRule => exact effects_ownSetDefaultRule s a _ _ _ _ hs
  | readDefaultRule => exact effects_ownReadDefaultRule s a _ _ hs
  | assignBank => exact effects_ownAssignBank s a _ _ hs
  | stageRule => exact effects_ownStageRule s a _ _ _ _ _ _ hs
  | stageRoute => exact effects_ownStageRoute s a _ _ _ _ hs
  | clearStaging => exact effects_ownClearStaging s a hs
  | writeEntry => exact effects_ownWriteEntry s a _ _ hs
  | readEntry => exact effects_ownReadEntry s a _ _ hs
  | enableRule => exact effects_setRuleActive s a _ _ hs
  | disableRule => exact effects_setRuleActive s a _ _ hs
  | move => exact effects_ownMove s a _ _ _ _ hs
  | fill => exact effects_ownFill s a _ _ _ hs
  | scan => exact effects_ownScan s a _ _ _ _ _ hs
  | clearHits => exact effects_ownClearHits s a _ _ hs
  | suspendBlock => exact effects_ownSuspendBlock s a hs
  | resumeBlock => exact effects_ownResumeBlock s a hs
  | abandonBlock => exact effects_ownAbandonBlock s a hs
  | setLinkRole => exact effects_ownSetLinkRole s a _ _ hs
  | setReportLink => exact effects_ownSetReportLink s a _ hs
  | readLinkCounters => exact effects_ownReadLinkCounters s a _ _ hs
  | _ => exact .refl s

/-- A command that need not wait has room for its reply, or resets the device at once. -/
theorem room_or_resets {s : State} {i : Instr} {h : Hdr} (hw : s.mustWait i h = false) :
    (h.acked = true → s.entryCount < 64) ∨ s.resetsAtOnce i h = true := by
  by_cases r : s.resetsAtOnce i h = true
  · exact Or.inr r
  · refine Or.inl fun ha => Nat.lt_of_not_le fun hc => ?_
    unfold State.mustWait at hw
    rw [ha, Bool.eq_false_iff.2 r, decide_eq_true (show Config.reportCapacity ≤ s.entryCount from hc)] at hw
    exact absurd hw (by decide)

theorem take_resetsAtOnce {s : State} {i : Instr} {h : Hdr} (hr : s.resetsAtOnce i h = true) :
    s.take i h = s.enterStarting false 1 := by
  cases i with
  | resetDevice k =>
    have e : (h.timed.isNone && h.lenOk && decide (s.roles.get h.link = .full)) = true := hr
    rw [Bool.and_eq_true, Bool.and_eq_true] at e
    unfold State.take
    rw [if_neg (show ¬ isUnknown (.resetDevice k) = true from fun h => nomatch h), Option.isNone_iff_eq_none.1 e.1.1, of_decide_eq_true e.2, e.1.2]
    rfl
  | _ => exact nomatch (show false = true from hr)

theorem effects_take {s : State} {i : Instr} {h : Hdr} (hw : s.mustWait i h = false) : Effects 64 s (s.take i h) := by
  rcases room_or_resets hw with hs | hr
  · unfold State.take
    split
    · exact effects_refuse (.refl s) (by exact hs) _ _
    · split
      · exact effects_cueArrival s i h _ hs
      · split
        · exact effects_refuse (.refl s) (by exact hs) _ _
        · split
          · exact effects_refuse (.refl s) (by exact hs) _ _
          · exact effects_own s i _ hs
  · rw [take_resetsAtOnce hr]
    exact effects_enterStarting s _ _

theorem popFront_length : ∀ q : List (List Instr), (popFront q).length ≤ q.length
  | [] => Nat.le_refl _
  | [] :: _ => Nat.le_succ _
  | [_] :: _ => Nat.le_succ _
  | (_ :: _ :: _) :: _ => Nat.le_refl _

theorem effects_popFront {m : Nat} (s : State) (l : Link) : Effects m s (s.setFifo l (popFront (s.fifos.get l))) :=
  .one (.fifo s l _ (popFront_length _).trans)

theorem effects_commandDue (s : State) (i : Instr) (h : Hdr) : Effects 64 s (s.commandDue i h) := by
  unfold State.commandDue
  dsimp only
  split
  · exact .refl s
  · split
    · split
      · exact .one (.fifo s _ _ fun _ => show 1 ≤ Config.fifoCapacity by decide)
      · exact effects_take (Bool.eq_false_iff.2 ‹_›)
    · split
      · split
        · exact .refl s
        · rename_i hw
          have e : (s.setFifo h.link (popFront (s.fifos.get h.link))).mustWait i h = false := Bool.eq_false_iff.2 hw
          exact (effects_popFront s h.link).andThen (effects_take e)
      · exact (effects_enqueueControl s _ _).widen

theorem effects_takeWaiting (s : State) (l : Link) : Effects 64 s (s.takeWaiting l) := by
  unfold State.takeWaiting
  split
  · exact .refl s
  · split
    · exact .refl s
    · rename_i i _
      split
      · exact .refl s
      · rename_i h _
        split
        · rename_i hw
          rw [Bool.and_eq_true] at hw
          have e : (s.setFifo l (popFront (s.fifos.get l))).mustWait i h = false :=
            (by simpa using hw.2 : s.mustWait i h = false)
          exact (effects_popFront s l).andThen (effects_take e)
        · exact .refl s

theorem effects_commandRow (s : State) (i : Instr) (h : Hdr) : Effects 64 s (s.commandRow i h) :=
  (effects_commandDue s i h).andThen (effects_settle _)

/-! ### Every row -/

theorem effects_frameLeft (s : State) (l : Link) : Effects 64 s (s.frameLeft l) := effects_setArb s l _ id

theorem effects_instantPart (s : State) (upTo : Nat → State → State) (place : InstantWork → Nat) (occurs : State → Bool)
    (n : Nat) (h : ∀ n s, Effects 56 s (upTo n s)) : Effects 64 s (s.instantPart upTo place occurs n) := by
  unfold State.instantPart
  dsimp only
  split
  · split
    · exact (((effects_inInstant s).andThen (h _ _)).andThen (h _ _)).widen.andThen (effects_settle _)
    · exact .refl s
  · exact .refl s

theorem effects_rowThenSettle {s t : State} (h : Effects 64 s t) : Effects 64 s t.settle := h.andThen (effects_settle t)

/-- A step is a chain of effects. -/
theorem exec_effects {i : Instr} {s t : State} (h : exec i s = .next t) : Effects 64 s t := by
  cases i <;> (injection h with h; subst h)
  case rstnLow => exact effects_enterStarting s _ _
  case rstnRelease => exact effects_enterStarting s _ _
  case powerUp => exact effects_enterStarting s _ _
  case startingEnd => exact effects_endStarting s
  case linkSample l p =>
    split
    · exact .refl s
    · exact effects_rowThenSettle (effects_linkSample s l p).widen
  case frameArrival l bs =>
    split
    · exact .refl s
    · exact effects_rowThenSettle (effects_frameArrives s l bs).widen
  case sampleInstant => exact effects_rowThenSettle (effects_sampleInstant s).widen
  case cueApply =>
    split
    · exact effects_rowThenSettle (effects_inInstant s).widen
    · exact .refl s
  case busSettle => exact effects_instantPart s _ _ _ _ effects_settleTo
  case feedStart => exact effects_instantPart s _ _ _ _ effects_feedsTo
  case servoRun => exact effects_instantPart s _ _ _ _ effects_feedsTo
  case drainEnd => exact effects_instantPart s _ _ _ _ effects_feedsTo
  case rampEnd => exact effects_instantPart s _ _ _ _ effects_routesTo
  case busFrameComplete => exact effects_instantPart s _ _ _ _ effects_handTo
  case frameSent l => exact effects_rowThenSettle (effects_frameLeft s l)
  case waitingCommandTaken l => exact effects_rowThenSettle (effects_takeWaiting s l)
  case moveStep => exact effects_rowThenSettle (effects_blockStep s _ _ effects_moveStep)
  case fillStep => exact effects_rowThenSettle (effects_blockStep s _ _ effects_fillStep)
  case scanStep => exact effects_rowThenSettle (effects_blockStep s _ _ effects_scanStep)
  case clearHitsStep => exact effects_rowThenSettle (effects_blockStep s _ _ effects_clearHitsStep)
  all_goals exact effects_commandRow s _ _

end Sys2Proof.Machine
end

