-- ==== Sys2Proof/Laws/Stop.lean ====
section
/-! SUPPORT. What the parts of STOP ENGINE do, feed by feed, route by route and bus by bus. -/

namespace Sys2Proof.Machine

/-- Every open feed below `n` closed in ascending order (R6, R77). -/
theorem closeFeeds_spec (u : State) : ∀ n,
    let t := (List.range n).foldl (fun t n => if (t.feed n).state = .closed then t else t.closeFeed n) u
    let returned := (List.range n).flatMap fun f => if (u.feed f).state = .closed then [] else (u.feed f).pages
    t = { u with feeds := t.feeds, freeList := u.freeList ++ returned, owners := t.owners, kernels := t.kernels } ∧
      (∀ f, t.feed f = if f < n ∧ (u.feed f).state ≠ .closed then (u.feed f).shut else u.feed f) ∧
      (∀ p, t.owner p = if p ∈ returned then .free else u.owner p) ∧
      (∀ k, t.kernel k =
        { u.kernel k with
          inUse := (u.kernel k).inUse -
            (List.range n).countP fun f => decide ((u.feed f).state ≠ .closed ∧ (u.feed f).kernel = k) })
  | 0 => by
    refine ⟨?_, fun f => ?_, fun p => ?_, fun k => rfl⟩
    · simp
    · simp
    · simp
  | n + 1 => by
    obtain ⟨a, b, c, d⟩ := closeFeeds_spec u n
    intro t returned
    have ht : t = (fun t n => if (t.feed n).state = .closed then t else t.closeFeed n) ((List.range n).foldl (fun t n => if (t.feed n).state = .closed then t else t.closeFeed n) u) n := by
      show (List.range (n+1)).foldl _ u = _
      rw [List.range_succ, List.foldl_append]; rfl
    have hr : returned = ((List.range n).flatMap fun f => if (u.feed f).state = .closed then [] else (u.feed f).pages) ++ if (u.feed n).state = .closed then [] else (u.feed n).pages := by
      show (List.range (n+1)).flatMap _ = _
      rw [List.range_succ, List.flatMap_append]; simp
    have hc : ∀ k, (List.range (n+1)).countP (fun f => decide ((u.feed f).state ≠ .closed ∧ (u.feed f).kernel = k)) =
       (List.range n).countP (fun f => decide ((u.feed f).state ≠ .closed ∧ (u.feed f).kernel = k)) + if (u.feed n).state ≠ .closed ∧ (u.feed n).kernel = k then 1 else 0 := by
      intro k; rw [List.range_succ, List.countP_append, List.countP_singleton]; simp
    generalize (List.range n).foldl (fun t n => if (t.feed n).state = .closed then t else t.closeFeed n) u = v at *
    generalize ((List.range n).flatMap fun f => if (u.feed f).state = .closed then [] else (u.feed f).pages) = R at *
    clear_value t returned
    subst ht hr
    have fn : v.feed n = u.feed n := by rw [b, if_neg (fun h => absurd h.1 (Nat.lt_irrefl _))]
    by_cases e : (u.feed n).state = .closed
    · simp only [fn, e, if_true, List.append_nil]
      refine ⟨a, fun f => ?_, c, fun k => ?_⟩
      · rw [b]
        by_cases h : f = n
        · subst h; simp [e]
        · have : f < n + 1 ↔ f < n := by omega
          simp [this]
      · rw [d, hc]; simp [e]
    · simp only [fn, e, if_false]
      refine ⟨?_, fun f => ?_, fun p => ?_, fun k => ?_⟩
      · rw [closeFeed_eq, fn]
        generalize (v.closeFeed n).feeds = x1; generalize (v.closeFeed n).owners = x2; generalize (v.closeFeed n).kernels = x3
        rw [a]; simp
      · by_cases h : n = f
        · subst h; rw [feed_closeFeed_same, fn, if_pos ⟨Nat.lt_succ_self _, e⟩]
        · rw [feed_closeFeed_other _ h, b]
          have : f < n + 1 ↔ f < n := by omega
          simp [this]
      · rw [owner_closeFeed, fn, c]
        by_cases h1 : p ∈ (u.feed n).pages <;> by_cases h2 : p ∈ R <;> simp [h1, h2]
      · rw [kernel_closeFeed, fn, d, hc]
        by_cases h : k = (u.feed n).kernel
        · subst h; simp [e, Nat.sub_sub]
        · simp [h, Ne.symm h]

/-- Every ramp of the routes below `n` snapped (R7). -/
theorem snapRoutes_spec (u : State) : ∀ n, n ≤ u.tableSize .route →
    let t := (List.range n).foldl State.snapRoute u
    t = { u with slots := t.slots } ∧
    (∀ i r, i < n → u.routeAt i = some r → t.routeAt i = some r.snap) ∧
    (∀ i r, u.routeAt i = some r → t.routeAt i = some r ∨ t.routeAt i = some r.snap) ∧
    (∀ i, u.routeAt i = none → t.routeAt i = none) ∧
      (∀ k, (∀ i r, i < n → u.slotKey .route i = k → u.slot k ≠ .route r) → t.slot k = u.slot k)
  | 0, _ => by
    exact ⟨rfl, fun i r h => absurd h (Nat.not_lt_zero i), fun i r h => Or.inl h, fun i h => h, fun k _ => rfl⟩
  | n + 1, hn => by
    obtain ⟨a, b, b', b'', c⟩ := snapRoutes_spec u n (by omega)
    intro t
    have ht : t = State.snapRoute ((List.range n).foldl State.snapRoute u) n := by
      show (List.range (n+1)).foldl _ u = _
      rw [List.range_succ, List.foldl_append]; rfl
    clear_value t; subst ht
    generalize (List.range n).foldl State.snapRoute u = v at *
    have key : ∀ i, v.slotKey .route i = u.slotKey .route i := by intro i; rw [a]; rfl
    have rt : ∀ i r, u.routeAt i = some r ↔ u.slot (u.slotKey .route i) = .route r := by
      intro i r; unfold State.routeAt State.entry
      cases u.slot (u.slotKey .route i) <;> simp
    have rtv : ∀ i r, v.routeAt i = some r ↔ v.slot (u.slotKey .route i) = .route r := by
      intro i r; unfold State.routeAt State.entry; rw [key]
      cases v.slot (u.slotKey .route i) <;> simp
    unfold State.snapRoute
    cases e : v.routeAt n with
    | none =>
      dsimp only
      have un : u.routeAt n = none := by
        cases h : u.routeAt n with
        | none => rfl
        | some r => rcases b' n r h with h | h <;> rw [e] at h <;> cases h
      refine ⟨a, fun i r hi h => ?_, b', b'', fun k hk => c k fun i r hi => hk i r (by omega)⟩
      by_cases h' : i = n
      · subst h'; rw [un] at h; cases h
      · exact b i r (by omega) h
    | some q =>
      dsimp only
      have qs : ∃ r, u.routeAt n = some r ∧ (q = r ∨ q = r.snap) := by
        cases h : u.routeAt n with
        | none => rw [b'' n h] at e; cases e
        | some r => rcases b' n r h with h | h <;> rw [e] at h <;> injection h with h
                    · exact ⟨r, rfl, Or.inl h⟩
                    · exact ⟨r, rfl, Or.inr h⟩
      obtain ⟨r0, hr0, hq⟩ := qs
      have qsnap : q.snap = r0.snap := by rcases hq with h | h <;> subst h <;> rfl
      have nr : ∀ i r, (v.setEntry .route n (.route q.snap)).routeAt i = some r ↔ (if u.slotKey .route n = u.slotKey .route i then r = r0.snap else v.routeAt i = some r) := by
        intro i r
        have : (v.setEntry .route n (.route q.snap)).routeAt i = some r ↔ (v.setSlot (u.slotKey .route n) (.route q.snap)).slot (u.slotKey .route i) = .route r := by
          unfold State.routeAt State.entry State.setEntry
          rw [key]
          have : ∀ x, (v.setSlot x (.route q.snap)).slotKey .route i = u.slotKey .route i := fun x => key i
          rw [this]
          cases (v.setSlot (u.slotKey .route n) (.route q.snap)).slot (u.slotKey .route i) <;> simp
        rw [this, slot_setSlot]
        split
        · rw [qsnap]; constructor
          · intro h; injection h with h; exact h.symm
          · intro h; rw [h]
        · exact (rtv i r).symm
      have same : ∀ i r, u.slotKey .route n = u.slotKey .route i → u.routeAt i = some r → r = r0 := by
        intro i r hk h
        have h1 := (rt i r).1 h
        have h2 := (rt n r0).1 hr0
        rw [← hk, h2] at h1; injection h1 with h1; exact h1.symm
      refine ⟨?_, fun i r hi h => ?_, fun i r h => ?_, fun i h => ?_, fun k hk => ?_⟩
      · show v.setEntry .route n (.route q.snap) = _
        rw [a]; rfl
      · rw [nr]
        split
        · rename_i hk; rw [same i r hk h]
        · rename_i hk
          exact b i r (by have : i ≠ n := (by rintro rfl; exact hk rfl); omega) h
      · by_cases hk : u.slotKey .route n = u.slotKey .route i
        · refine Or.inr ((nr _ _).2 ?_); rw [if_pos hk, same i r hk h]
        · rcases b' i r h with h | h
          · exact Or.inl ((nr _ _).2 (by rw [if_neg hk]; exact h))
          · exact Or.inr ((nr _ _).2 (by rw [if_neg hk]; exact h))
      · cases h' : (v.setEntry .route n (.route q.snap)).routeAt i with
        | none => rfl
        | some r =>
          rw [nr] at h'
          split at h'
          · rename_i hk
            have h2 := (rt n r0).1 hr0
            rw [hk] at h2
            rw [(rt i r0).2 h2] at h; cases h
          · rw [b'' i h] at h'; cases h'
      · have : (v.setEntry .route n (.route q.snap)).slot k = if u.slotKey .route n = k then .route q.snap else v.slot k := by
          unfold State.setEntry; rw [key, slot_setSlot]
        rw [this, if_neg]
        · exact c k fun i r hi => hk i r (by omega)
        · intro h
          exact hk n r0 (by omega) h (h ▸ (rt n r0).1 hr0)

/-- Every bus below `n` stopped, its delay line cleared (R7, R82). -/
theorem stopBuses_spec (u : State) : ∀ n,
    let t := (List.range n).foldl State.stopBus u
    let cleared := fun a => ∃ b q, b < n ∧ q < (u.bus b).delay ∧ q / 256 < (u.bus b).pages.length ∧
      a = pageAddress (u.bus b).pages q
    t = { u with buses := t.buses, memory := t.memory } ∧
      (∀ b, b < n → t.bus b = { u.bus b with state := .disabled, index := 0 }) ∧ (∀ b, n ≤ b → t.bus b = u.bus b) ∧
      (∀ a, cleared a → t.word a = 0) ∧ (∀ a, ¬ cleared a → t.word a = u.word a)
  | 0 => by
    refine ⟨rfl, fun b h => absurd h (Nat.not_lt_zero b), fun _ _ => rfl, fun a h => ?_, fun _ _ => rfl⟩
    obtain ⟨b, q, h, _⟩ := h; exact absurd h (Nat.not_lt_zero b)
  | n + 1 => by
    obtain ⟨a, b, c, d, e⟩ := stopBuses_spec u n
    intro t cleared
    have ht : t = State.stopBus ((List.range n).foldl State.stopBus u) n := by
      show (List.range (n+1)).foldl _ u = _
      rw [List.range_succ, List.foldl_append]; rfl
    clear_value t; subst ht
    generalize (List.range n).foldl State.stopBus u = v at *
    have hb : ∀ j, (v.stopBus n).bus j = if n = j then { v.bus n with state := .disabled, index := 0 } else v.bus j := by
      intro j
      unfold State.stopBus State.clearLine
      dsimp only
      rw [bus_setBus, bus_setBus_same]
      by_cases h : n = j
      · rw [if_pos h, if_pos h]
      · rw [if_neg h, if_neg h, bus_setBus, if_neg h]; rfl
    have vn : v.bus n = u.bus n := c n (Nat.le_refl _)
    have hw : ∀ x, (v.stopBus n).word x = if (∃ q, q < (u.bus n).delay ∧ q / 256 < (u.bus n).pages.length ∧ x = pageAddress (u.bus n).pages q) then 0 else v.word x := by
      intro x
      show (v.clearWords (v.bus n).pages (v.bus n).delay).word x = _
      rw [word_clearWords, vn]
      by_cases h : (∃ q, q < (u.bus n).delay ∧ q / 256 < (u.bus n).pages.length ∧ x = pageAddress (u.bus n).pages q)
      · rw [if_pos ((inLine_iff _ _ _).2 h), if_pos h]
      · rw [if_neg (fun h' => h ((inLine_iff _ _ _).1 h')), if_neg h]
    refine ⟨?_, fun j hj => ?_, fun j hj => ?_, fun x hx => ?_, fun x hx => ?_⟩
    · unfold State.stopBus State.clearLine
      dsimp only
      rw [a]; rfl
    · rw [hb]; split
      · rename_i h; subst h; rw [vn]
      · exact b j (by omega)
    · rw [hb, if_neg (by omega)]; exact c j (by omega)
    · rw [hw]; split
      · rfl
      · rename_i h
        obtain ⟨j, q, hj, h1⟩ := hx
        by_cases e : j = n
        · subst e; exact absurd ⟨q, h1⟩ h
        · exact d x ⟨j, q, by omega, h1⟩
    · rw [hw, if_neg]
      · exact e x fun ⟨j, q, hj, h1⟩ => hx ⟨j, q, by omega, h1⟩
      · exact fun ⟨q, h1⟩ => hx ⟨n, q, by omega, h1⟩

end Sys2Proof.Machine
end

