-- ==== Sys2Proof/Laws/Tables.lean ====
section
/-! SUPPORT. Laws of the two tables: which slot an index names, what writing one changes, and what a slot of the admission table can hold. -/

namespace Sys2Proof.Machine

/-- The pool slot of an index inside a table. -/
theorem slotKey_inside (s : State) (t : TableId) {i : Nat} (hi : i < s.tableSize t) :
    ∃ h : i / 128 < (s.banksOf t).length, s.slotKey t i = (s.banksOf t)[i / 128] * 128 + i % 128 := by
  have h : i / 128 < (s.banksOf t).length := by
    have : i < (s.banksOf t).length * 128 := hi
    omega
  refine ⟨h, ?_⟩
  show (s.banksOf t).getD (i/128) 0 * 128 + i % 128 = _
  rw [List.getD_eq_getElem _ _ h]

theorem mem_banks (s : State) (t : TableId) {b : Nat} (h : b ∈ s.banksOf t) : b ∈ s.admissionBanks ++ s.routeBanks := by
  cases t <;> simp only [State.banksOf] at h <;> rw [List.mem_append] <;> tauto

/-- Two places of the tables are two slots of the pool, where no bank stands twice (R118, R119). -/
theorem slotKey_injective (s : State) (hN : (s.admissionBanks ++ s.routeBanks).Nodup) {t u : TableId} {i j : Nat} (hi : i < s.tableSize t)
    (hj : j < s.tableSize u) (h : s.slotKey t i = s.slotKey u j) : t = u ∧ i = j := by
  obtain ⟨hi', ei⟩ := slotKey_inside s t hi
  obtain ⟨hj', ej⟩ := slotKey_inside s u hj
  rw [ei, ej] at h
  have hb : (s.banksOf t)[i / 128] = (s.banksOf u)[j / 128] := by omega
  have hm : i % 128 = j % 128 := by omega
  rw [List.nodup_append] at hN
  have m1 : (s.banksOf t)[i / 128] ∈ s.banksOf t := List.getElem_mem _
  have m2 : (s.banksOf u)[j / 128] ∈ s.banksOf u := List.getElem_mem _
  have tu : t = u := by
    cases t <;> cases u <;> try rfl
    · exact absurd hb (hN.2.2 _ m1 _ m2)
    · exact absurd hb.symm (hN.2.2 _ m2 _ m1)
  subst tu
  refine ⟨rfl, ?_⟩
  have nd : (s.banksOf t).Nodup := by cases t; exacts [hN.1, hN.2.1]
  have := (List.Nodup.getElem_inj_iff nd).1 hb
  omega

theorem tableSize_setEntry (s : State) (t u : TableId) (i : Nat) (x : Slot) : (s.setEntry t i x).tableSize u = s.tableSize u := by
  cases u <;> rfl

theorem entry_setEntry (s : State) (hN : (s.admissionBanks ++ s.routeBanks).Nodup) {t u : TableId} {i j : Nat} (x : Slot) (hi : i < s.tableSize t)
    (hj : j < s.tableSize u) : (s.setEntry t i x).entry u j = if t = u ∧ i = j then x else s.entry u j := by
  have k : (s.setEntry t i x).slotKey u j = s.slotKey u j := by cases u <;> rfl
  show (s.setSlot _ x).slot ((s.setEntry t i x).slotKey u j) = _
  rw [k, slot_setSlot]
  by_cases e : t = u ∧ i = j
  · rw [if_pos e, e.1, e.2, if_pos rfl]
  · rw [if_neg e, if_neg (fun h => e (slotKey_injective s hN hi hj h))]; rfl

theorem banksApart_setEntry (s : State) (h : s.BanksApart) (t : TableId) {i : Nat} (x : Slot) (hi : i < s.tableSize t) : (s.setEntry t i x).BanksApart := by
  refine ⟨h.1, fun k hk => ?_⟩
  change k / 128 ∉ s.admissionBanks ++ s.routeBanks at hk
  show (s.setSlot _ x).slot k = _
  rw [slot_setSlot, if_neg]
  · exact h.2 k hk
  · intro e
    obtain ⟨hi', ei⟩ := slotKey_inside s t hi
    apply hk
    have : k / 128 = (s.banksOf t)[i / 128] := by omega
    rw [this]
    exact mem_banks s t (List.getElem_mem _)

/-- Several slots of a table made EMPTY. -/
theorem entry_emptySlots (t : TableId) : ∀ (is : List Nat) (s : State), s.BanksApart → (∀ i ∈ is, i < s.tableSize t) →
    (s.emptySlots t is).BanksApart ∧
      ∀ v j, j < s.tableSize v → (s.emptySlots t is).entry v j = if t = v ∧ j ∈ is then .empty else s.entry v j
  | [], s, h, _ => ⟨h, fun v j _ => by simp [State.emptySlots]⟩
  | i :: is, s, h, hi => by
    have h0 := hi i List.mem_cons_self
    have size := tableSize_setEntry s t
    obtain ⟨a, b⟩ := entry_emptySlots t is (s.setEntry t i .empty) (banksApart_setEntry s h t .empty h0)
      (fun j hj => by rw [size]; exact hi j (List.mem_cons_of_mem _ hj))
    refine ⟨a, fun v j hj => ?_⟩
    refine (b v j (by rw [size]; exact hj)).trans ?_
    rw [entry_setEntry s h.1 .empty h0 hj]
    by_cases e : t = v
    · by_cases m : j ∈ is
      · simp [e, m]
      · by_cases k : i = j
        · subst k; simp [e]
        · simp [e, m, k, Ne.symm k]
    · simp [e]

theorem tableSize_even (s : State) (t : TableId) : s.tableSize t % 2 = 0 := by
  have : s.tableSize t = (s.banksOf t).length * 128 := rfl
  omega

/-- A slot of the admission table is half of a wide rule, a narrow rule, or EMPTY. -/
theorem rule_cases (s : State) (h : s.RulesWhole) {i : Nat} (hi : i < s.tableSize .admission) :
    ((∃ k r w, (i = k ∨ i = k + 1) ∧ k % 2 = 0 ∧ k + 1 < s.tableSize .admission ∧ s.entry .admission k = .wideHead r ∧ s.entry .admission (k+1) = .continuation w ∧
        s.ruleSlots i = [k, k+1] ∧ (s.ruleAt i).isSome) ∨
     (∃ r, s.entry .admission i = .narrow r ∧ s.ruleSlots i = [i] ∧ (s.ruleAt i).isSome) ∨
     (s.entry .admission i = .empty ∧ s.ruleSlots i = [i] ∧ s.ruleAt i = none)) := by
  have ev := tableSize_even s .admission
  cases e : s.entry .admission i with
  | empty =>
    have r : s.ruleIndex i = i := by unfold State.ruleIndex; rw [e]
    have a : s.ruleAt i = none := by unfold State.ruleAt; simp only [r, e]
    exact Or.inr (Or.inr ⟨rfl, by unfold State.ruleSlots; rw [a], a⟩)
  | narrow q =>
    have r : s.ruleIndex i = i := by unfold State.ruleIndex; rw [e]
    have a : s.ruleAt i = some (i, q, none) := by unfold State.ruleAt; simp only [r, e]
    exact Or.inr (Or.inl ⟨q, rfl, by unfold State.ruleSlots; rw [a], by rw [a]; rfl⟩)
  | wideHead q =>
    obtain ⟨h1, w, h2⟩ := (h i hi).1 q e
    have r : s.ruleIndex i = i := by unfold State.ruleIndex; rw [e]
    have a : s.ruleAt i = some (i, q, some w) := by unfold State.ruleAt; simp only [r, e, h2]
    exact Or.inl ⟨i, q, w, Or.inl rfl, h1, by omega, e, h2, by unfold State.ruleSlots; rw [a], by rw [a]; rfl⟩
  | continuation w =>
    obtain ⟨h1, q, h2⟩ := (h i hi).2.1 w e
    have r : s.ruleIndex i = i - 1 := by unfold State.ruleIndex; rw [e]
    have e1 : i - 1 + 1 = i := by omega
    have a : s.ruleAt i = some (i - 1, q, some w) := by unfold State.ruleAt; simp only [r, h2, e1, e]
    exact Or.inl ⟨i - 1, q, w, Or.inr e1.symm, by omega, by omega, h2, by rw [e1, e], by unfold State.ruleSlots; rw [a], by rw [a]; rfl⟩
  | route q => exact absurd e ((h i hi).2.2 q)

end Sys2Proof.Machine
end

