-- ==== Sys2Proof/Tests/Slice0.lean ====
section
/-! SUPPORT. Tests: the well-formedness checks refuse an ill-formed term each, the manual's worked cases come out, and every statement's hypotheses are met by a concrete state and operands, clause by clause. -/

namespace Sys2Proof.Tests

open Sys2Proof.Machine

section

-- One theorem after another: threads that wait for the kernel each take a stack.
set_option Elab.async false

/-! ### Well-formedness -/

/-- The header of an acknowledged, untimed command of link 0. -/
def h0 : Hdr := { link := .l0, acked := true, timed := none, tag := 7, lenOk := true }
/-- The header of a posted command of link 1. -/
def p1 : Hdr := { h0 with link := .l1, acked := false }
/-- The header of a command of link 0 for instant `t`. -/
def at0 (t : Nat) : Hdr := { h0 with timed := some t }

def key0 : NarrowKey := { linkV := 0, linkC := 1, streamV := 210, streamC := 4095, classV := 0, classC := 0 }
def wide0 : WideKey := { programV := 1, programC := 255, languageV := 5, languageC := 255, rateV := 0, rateC := 0 }

theorem test_wellFormed_refuses_headers :
    ([.readTime { h0 with tag := 65536 }, .readTime (at0 281474976710656)] : List Instr).all (fun i => !i.wellFormed) = true := by
  decide +kernel

theorem test_wellFormed_refuses_codes_and_engine_operands :
    ([.unknownCommand h0 256, .unknownCommand h0 1, .unknownCommand h0 0x52, .setHouseRate h0 4294967296,
      .setHouseTime h0 281474976710656, .setLinkFraming h0 256 8, .setLinkFraming h0 0 256, .setRouteGain h0 65536 0 0,
      .setRouteGain h0 0 65536 0, .setRouteGain h0 0 0 65536] : List Instr).all (fun i => !i.wellFormed) = true := by
  decide +kernel

theorem test_wellFormed_refuses_bus_and_kernel_operands :
    ([.enableBus h0 256, .disableBus h0 256, .readBus h0 256, .setBusTrim h0 0 65536, .setBusMute h0 0 256,
      .setBusMode h0 0 1 256, .setBusDelay h0 0 65536, .setBusLink h0 0 256, .ackBusEvents h0 0 256,
      .loadKernelRows h0 1 0 1 (List.replicate 15 0), .loadKernelRows h0 1 0 1 (List.replicate 16 8388608),
      .validateKernelSet h0 256] : List Instr).all (fun i => !i.wellFormed) = true := by
  decide +kernel

theorem test_wellFormed_refuses_feed_and_cue_operands :
    ([.openFeed h0 256 0 0 1 16 0 0 none, .openFeed h0 0 0 0 1 16 0 0 (some 281474976710656), .closeFeed h0 256 1,
      .retuneFeed h0 0 256 none, .retuneFeed h0 0 0 (some 256), .setFeedTarget h0 0 65536, .holdFeed h0 256, .releaseFeed h0 256,
      .readFeed h0 0 256, .ackFeedEvents h0 0 256, .readPool h0 256 none, .readPool h0 2 (some 65536), .cancelCues h0 65536,
      .setLateTolerance h0 65536] : List Instr).all (fun i => !i.wellFormed) = true := by
  decide +kernel

theorem test_wellFormed_refuses_table_and_link_operands :
    ([.setWindow h0 0 0 1 65536 0 0 0 0, .readWindow h0 256 0, .setDefaultRule h0 256 1 0 0, .readDefaultRule h0 0 256,
      .assignBank h0 256 1, .stageRule h0 1 1 { key0 with streamV := 65536 } none 1 0,
      .stageRule h0 2 1 key0 (some { wide0 with rateC := 256 }) 1 0, .stageRoute h0 0 0 1 65536, .writeEntry h0 256 0,
      .readEntry h0 1 65536, .enableRule h0 65536, .disableRule h0 65536, .move h0 1 0 0 65536, .fill h0 1 65536 1,
      .scan h0 1 0 1 65536 1, .clearHits h0 0 65536, .setLinkRole h0 0 256, .setReportLink h0 256,
      .readLinkCounters h0 256 0] : List Instr).all (fun i => !i.wellFormed) = true := by
  decide +kernel

theorem test_wellFormed_refuses_numbers_of_no_record :
    ([.busSettle 64, .feedStart 128, .servoRun 128, .drainEnd 128, .rampEnd 2048] : List Instr).all (fun i => !i.wellFormed) =
      true := by
  decide +kernel

/-- A command of a length its operands cannot have has none to read, so only its header is checked. -/
theorem test_wellFormed_bad_length : (Instr.enableBus { h0 with lenOk := false } 0).wellFormed = true := by decide +kernel

/-! ### The manual's worked values -/

/-- The check value of the CRC-32 of R148, over the nine digits 1 to 9. -/
theorem test_crc : crc32 [0x31, 0x32, 0x33, 0x34, 0x35, 0x36, 0x37, 0x38, 0x39] = 0xCBF43926 := by decide +kernel

/-- File 02's feed 5 before the first run shown. -/
def driftFeed : Feed :=
  { Feed.initial with state := .running, nominal := 15414067, step := 15414067, target := 512, integrator := 100 }

/-- A servo run at fill `f`. -/
def servoAt (x : Feed) (f : Nat) : Feed := { x with fill := f }.servo

/-- File 02, four servo intervals. -/
theorem test_servo_intervals :
    [servoAt driftFeed 540, servoAt (servoAt driftFeed 540) 530, servoAt (servoAt (servoAt driftFeed 540) 530) 505,
      servoAt (servoAt (servoAt (servoAt driftFeed 540) 530) 505) 490].map (fun x => (x.integrator, x.correction, x.step)) =
      [(128, 1800, 15415867), (146, 1161, 15415228), (139, -440, 15413627), (117, -1401, 15412666)] := by
  decide +kernel

/-- File 02, a clamped correction. -/
theorem test_servo_clamped :
    let x := servoAt { driftFeed with nominal := 16777216, step := 16777216, integrator := 5000 } 900
    (x.integrator, x.correction, x.step) = (5388, 16384, 16793600) := by
  decide +kernel

/-- File 01, the ramp example: 16,384 to 12,288 over three instants. -/
theorem test_ramp :
    let a : Route := ({ feed := 9, bus := 3, polarity := .normal, current := 1073741824, target := 16384, remaining := 0,
                        step := 0 } : Route).setGain 12288 3
    [a, a.advance, a.advance.advance, a.advance.advance.advance].map (fun r => (r.current, r.remaining)) =
      [(1073741824, 3), (984263339, 2), (894784854, 1), (805306368, 0)] := by
  decide +kernel

/-- The device with both links FULL and nothing in its report queue. -/
def full : State := { State.reset with roles := PerLink.both .full, reports := [] }

/-- File 02, one instant of a 44.1 kHz feed: the feed after its step, and its output. -/
theorem test_conversion :
    let s : State := { full with
      engine := .run, houseTime := 1, instant := some InstantWork.initial
      feeds := [(5, { Feed.initial with
        state := .running, pages := [0], fill := 3, writeIndex := 3, nominal := 15414067, step := 15414067, position := 16000000
        history := List.replicate 15 0 ++ [1000] })]
      memory := [(0, 2000)] }
    let t := s.feedStep 5
    ((t.feed 5).position, (t.feed 5).fill, cellGet 0 t.work.outputs 5) = (14636851, 2, 1872) := by
  decide +kernel

/-- File 02, the last instant of a drain. -/
theorem test_drain_end :
    let s : State := { full with
      engine := .run, houseTime := 1, instant := some InstantWork.initial, freeList := [1]
      feeds := [(12, { Feed.initial with
        state := .draining, pages := [7], fill := 1, writeIndex := 1, rateCode := 2, nominal := 30828134, step := 30828134
        position := 10000000, history := List.replicate 14 0 ++ [300, 400] })]
      memory := [(1792, 600)] }
    let t := s.feedStep 12
    ((t.feed 12).state, (t.feed 12).position, t.freeList, cellGet 0 t.work.outputs 12, t.reports.map (·.code)) =
      (.closed, 7273702, [1, 7], 340, [EventKind.state.code]) := by
  decide +kernel

/-- What a step answers, read by `f`; `d` where it does not answer next. -/
def after {α : Type} (o : Host.Outcome State Fault Refusal) (d : α) (f : State → α) : α :=
  match o with
  | .next t => f t
  | _ => d

/-- The front command of a queue is taken, and an empty queue idles (log entry 4). -/
theorem test_step_takes_the_front :
    after (step { State.reset with pending := [.setHouseTime h0 5, .readTime h0] }) (0, 0) (fun t =>
      (t.houseTime.toNat, t.pending.length)) = (5, 1) ∧
      after (step { State.reset with pending := [] }) false (fun t => decide (t = State.reset)) = true := by
  decide +kernel

/-! ### A device with something of everything -/

/-- An open feed in page `p` with `n` samples, at rate code 1. -/
def feedIn (st : FeedState) (p n : Nat) : Feed :=
  { Feed.initial with
    state := st, pages := [p], fill := n, writeIndex := n % 256, rateCode := 1, nominal := 16777216, step := 16777216 }

def rule0 : Rule := { active := true, key := key0, verdict := .accept, feed := 2, hits := 3 }
def rule1 : Rule := { rule0 with active := false }
def route0 : Route := { feed := 2, bus := 2, polarity := .normal, current := 1073741824, target := 16384, remaining := 0, step := 0 }
def route1 : Route := { route0 with feed := 3, remaining := 1 }

/-- RUN, with feeds 1 to 6 and buses 1 to 3 in every state, a kernel set of each state, active narrow rules at indices
0, 1 and 9 and a wide one at 2 of the admission table, disabled ones at 4 and 6, and routes at indices 0 and 3 of the route table. -/
def demo : State := { full with
  engine := .run, houseTime := 4800
  buses := [(1, { Bus.initial with state := .enabling }), (2, { Bus.initial with state := .enabled, delay := 300, pages := [4, 5] }),
    (3, { Bus.initial with state := .disabling })]
  kernels := [(0, { KernelSet.linear with inUse := 6 }), (2, { KernelSet.initial with state := .loading, written := 1 }),
    (3, KernelSet.linear)]
  feeds := [(1, feedIn .priming 0 20), (2, { feedIn .running 1 20 with binding := some (.l0, 210), expected := some 100 }),
    (3, feedIn .starved 2 20), (4, feedIn .draining 3 5), (5, feedIn .draining 6 0),
    (6, { feedIn .priming 7 0 with start := some 5000 })]
  owners := [(0, .feed 1), (1, .feed 2), (2, .feed 3), (3, .feed 4), (4, .bus 2), (5, .bus 2), (6, .feed 5), (7, .feed 6)]
  freeList := List.range' 8 504
  admissionBanks := [3], routeBanks := [5]
  slots := [(384, .narrow rule0), (385, .narrow rule0), (386, .wideHead rule0), (387, .continuation wide0), (388, .narrow rule1),
    (390, .wideHead rule1), (391, .continuation wide0), (393, .narrow rule0), (640, .route route0), (643, .route route1)]
  links := PerLink.both { LinkState.initial with up := true }
  pending := [.closeFeed h0 2 1, .sampleInstant] }

/-- The same device in CONFIG, as far as CONFIG allows it. -/
def stopped : State := { demo with engine := .config, feeds := [], buses := [] }

/-- The demonstration device with 64 entries in its report queue. -/
def crammed : State := { demo with reports := List.replicate 64 (startedReport 0) }

/-- A block operation over the route or admission table. -/
def block0 (k : BlockKind) (t : TableId) (first count : Nat) (offset : Int) : Block :=
  { kind := k, table := t, first := first, count := count, offset := offset, descending := false, image := .empty, selector := 1,
    mode := .untilEqual, next := first, remaining := count, origin := .l0, tag := 7, acked := true, phase := .running }

def withBlock (b : Block) : State := { demo with block := some b, heldPlace := b.acked }

/-! ### The hypotheses of the statements are met -/

theorem witness_StepRunsFrontCommand :
    demo.pending = .closeFeed h0 2 1 :: [.sampleInstant] ∧ State.reset.pending = [] := by
  try dsimp only
  repeat' apply And.intro
  all_goals decide +kernel

/-- Waiting at exactly 64 entries, and not at 63; RESET DEVICE excepted. -/
theorem witness_CommandRowsFollowTheControlPath :
    (Instr.readTime h0).hdr? = some h0 ∧ crammed.mustWait (.readTime h0) h0 = true ∧
      { crammed with reports := crammed.reports.drop 1 }.mustWait (.readTime h0) h0 = false ∧
      { crammed with reports := crammed.reports.drop 1, heldPlace := true }.mustWait (.readTime h0) h0 = true ∧
      crammed.mustWait (.resetDevice h0) h0 = false ∧ crammed.mustWait (.readTime p1) p1 = false ∧
      { State.reset with engine := .starting }.engine = .starting ∧ demo.Takes (.readTime h0) h0 ∧
      ({ demo with fifos := { zero := [[.readTime h0, .readCues h0]], one := [] } } : State).Takes (.readTime h0) h0 ∧
      (crammed.engine ≠ .starting ∧ crammed.fifos.get h0.link = [] ∧ crammed.mustWait (.readTime h0) h0 = true) ∧
      (let s : State := { crammed with fifos := { zero := [[.readTime h0]], one := [] } }
       s.engine ≠ .starting ∧ frontCommand (s.fifos.get h0.link) = some (.readTime h0) ∧ s.mustWait (.readTime h0) h0 = true ∧
         s.fifos.get h0.link ≠ [] ∧ frontCommand (s.fifos.get h0.link) ≠ some (.readCues h0) ∧ h0.acked = true) ∧
      (let s : State := { demo with fifos := { zero := [[.readTime h0]], one := [] } }
       frontCommand (s.fifos.get .l0) = some (.readTime h0) ∧ s.mustWait (.readTime h0) h0 = false) := by
  try dsimp only
  repeat' apply And.intro
  all_goals decide +kernel

theorem witness_CommandsAreJudgedInOrder :
    demo.Takes (.unknownCommand h0 0x60) h0 ∧ demo.Takes (.readTime (at0 9)) (at0 9) ∧ isUnknown (.readTime h0) = false ∧
      (let s : State := { demo with roles := { zero := .mix, one := .none } }
       s.Takes (.startEngine h0) h0 ∧ h0.timed = none ∧ permitted (s.roles.get h0.link) (.startEngine h0) = false ∧
         permitted (s.roles.get h0.link) (.readTime h0) = true ∧ permitted (s.roles.get .l1) (.readTime p1) = false) ∧
      (let h := { h0 with lenOk := false }
       demo.Takes (.readTime h) h ∧ permitted (demo.roles.get h.link) (.readTime h) = true) ∧
      demo.Takes (.readTime h0) h0 := by
  try dsimp only
  repeat' apply And.intro
  all_goals decide +kernel

/-- Events at 55 and at 56 entries, a held place counted. -/
theorem witness_AnswersAndEventsEnterTheQueue :
    (let s : State := { crammed with reports := crammed.reports.take 55 }
     s.reports.length + (if s.heldPlace then 1 else 0) < 56) ∧
      (let s : State := { crammed with reports := crammed.reports.take 55, heldPlace := true }
       56 ≤ s.reports.length + (if s.heldPlace then 1 else 0)) ∧
      (askOf h0 (.readTime h0) .device).acked = true ∧ (askOf p1 (.readTime p1) .device).acked = false := by
  try dsimp only
  repeat' apply And.intro
  all_goals decide +kernel

theorem witness_ResetEntersStarting :
    demo.Ready (.resetDevice h0) h0 ∧ crammed.Ready (.resetDevice h0) h0 ∧
      { State.reset with engine := .starting }.engine = .starting := by
  try dsimp only
  repeat' apply And.intro
  all_goals decide +kernel

theorem witness_ResetHoldsTheListedValues :
    let s : State := { State.reset with engine := .starting }
    s.engine = .starting ∧ s.rstnLow = false := by
  try dsimp only
  repeat' apply And.intro
  all_goals decide +kernel

theorem witness_engine_statements :
    (stopped.Ready (.startEngine h0) h0 ∧ stopped.engine = .config) ∧ (demo.Ready (.startEngine h0) h0 ∧ demo.engine = .run) ∧
      (stopped.Ready (.stopEngine h0) h0) ∧ (demo.Ready (.stopEngine h0) h0) := by
  try dsimp only
  repeat' apply And.intro
  all_goals decide +kernel

theorem witness_ConfigSettingsAreTaken :
    stopped.Ready (.setHouseRate h0 48000) h0 ∧ stopped.Ready (.setHouseRate h0 96000) h0 ∧
      stopped.Ready (.setHouseRate h0 44100) h0 ∧ stopped.Ready (.setHouseTime h0 281474976710655) h0 ∧
      stopped.Ready (.setLinkFraming h0 Link.l1.num 16) h0 ∧ stopped.Ready (.setLinkFraming h0 2 8) h0 ∧
      stopped.Ready (.setLinkFraming h0 1 5) h0 ∧ demo.Ready (.setHouseRate h0 48000) h0 ∧ demo.Ready (.readTime h0) h0 ∧
      stopped.engine = .config ∧ demo.engine = .run := by
  try dsimp only
  repeat' apply And.intro
  all_goals decide +kernel

/-- The last index of the table holds no route, and the next does not exist. -/
theorem witness_SetRouteGainRamps :
    (demo.Ready (.setRouteGain h0 128 1 0) h0 ∧ (demo.handedBetween h0).tableSize .route ≤ 128) ∧
      (demo.Ready (.setRouteGain h0 127 1 0) h0 ∧ 127 < (demo.handedBetween h0).tableSize .route ∧
        (demo.handedBetween h0).routeAt 127 = none) ∧
      (demo.Ready (.setRouteGain h0 0 1 3) h0 ∧ (demo.handedBetween h0).routeAt 0 = some route0) := by
  try dsimp only
  repeat' apply And.intro
  all_goals decide +kernel

theorem witness_BusRequestsAreStored :
    (demo.Ready (.enableBus h0 63) h0 ∧ ((demo.handedBetween h0).bus 63).state = .disabled) ∧
      (demo.Ready (.enableBus h0 1) h0 ∧ ((demo.handedBetween h0).bus 1).state = .enabling) ∧
      (demo.Ready (.enableBus h0 2) h0 ∧ ((demo.handedBetween h0).bus 2).state = .enabled) ∧
      (demo.Ready (.disableBus h0 3) h0 ∧ ((demo.handedBetween h0).bus 3).state = .disabling) ∧
      demo.Ready (.disableBus h0 63) h0 ∧ demo.Ready (.disableBus h0 1) h0 ∧ demo.Ready (.disableBus h0 2) h0 ∧
      demo.Ready (.setBusTrim h0 0 65535) h0 ∧ demo.Ready (.setBusMute h0 0 1) h0 ∧ onOff? 1 = some true ∧
      demo.Ready (.setBusMode h0 0 2 127) h0 ∧ busMode? 2 = some .solo ∧ demo.Ready (.setBusMute h0 0 2) h0 ∧
      demo.Ready (.setBusMode h0 0 4 0) h0 ∧ busMode? 4 = none ∧ demo.Ready (.setBusMode h0 0 1 128) h0 := by
  try dsimp only
  repeat' apply And.intro
  all_goals decide +kernel

/-- A free list of no page: none needed is enough, one needed is not. -/
theorem witness_BusDelayExchangesPages :
    (demo.Ready (.setBusDelay h0 2 5) h0 ∧ ((demo.handedBetween h0).bus 2).state ≠ .disabled) ∧
      (let s : State := { demo with freeList := [] }
       (s.Ready (.setBusDelay h0 0 1) h0 ∧ ((s.handedBetween h0).bus 0).state = .disabled ∧
          ((s.handedBetween h0).freeList ++ ((s.handedBetween h0).bus 0).pages).length < (min 1 4800 + 255) / 256) ∧
        (s.Ready (.setBusDelay h0 0 0) h0 ∧
          (min 0 4800 + 255) / 256 ≤ ((s.handedBetween h0).freeList ++ ((s.handedBetween h0).bus 0).pages).length)) ∧
      (demo.Ready (.setBusDelay h0 63 4801) h0 ∧
        (min 4801 4800 + 255) / 256 ≤ ((demo.handedBetween h0).freeList ++ ((demo.handedBetween h0).bus 63).pages).length) := by
  try dsimp only
  repeat' apply And.intro
  all_goals decide +kernel

theorem witness_BusLinkReadAndAck :
    (demo.Ready (.setBusLink h0 63 255) h0 ∧ ((demo.handedBetween h0).bus 63).state = .disabled) ∧
      demo.Ready (.setBusLink h0 0 1) h0 ∧ demo.Ready (.setBusLink h0 0 2) h0 ∧
      (demo.Ready (.setBusLink h0 2 0) h0 ∧ ((demo.handedBetween h0).bus 2).state ≠ .disabled) ∧
      demo.Ready (.readBus h0 63) h0 ∧ demo.Ready (.ackBusEvents h0 2 0) h0 ∧ demo.Ready (.ackBusEvents h0 2 1) h0 := by
  try dsimp only
  repeat' apply And.intro
  all_goals decide +kernel

/-- Bus 64, one above the last, and a clear flag of 2. -/
theorem witness_bus_refusals :
    demo.Ready (.enableBus h0 64) h0 ∧ demo.Ready (.disableBus h0 255) h0 ∧ demo.Ready (.setBusTrim h0 64 1) h0 ∧
      demo.Ready (.setBusMute h0 64 0) h0 ∧ demo.Ready (.setBusMode h0 64 1 0) h0 ∧ demo.Ready (.setBusDelay h0 64 1) h0 ∧
      demo.Ready (.setBusLink h0 64 0) h0 ∧ demo.Ready (.readBus h0 64) h0 ∧ demo.Ready (.ackBusEvents h0 64 0) h0 ∧
      demo.Ready (.ackBusEvents h0 63 2) h0 := by
  try dsimp only
  repeat' apply And.intro
  all_goals decide +kernel

/-- The last rows, 61 to 64, of a set in use and of one that is not. -/
theorem witness_KernelRowsAreWritten :
    (List.replicate 64 (65535 : Int)).length = 16 * 4 ∧ (∀ c ∈ List.replicate 64 (65535 : Int), -65536 ≤ c ∧ c ≤ 65535) ∧
      61 + 4 ≤ 65 ∧ demo.Ready (.loadKernelRows h0 3 61 4 (List.replicate 64 65535)) h0 ∧
      (demo.Ready (.loadKernelRows h0 0 61 4 (List.replicate 64 65535)) h0 ∧ (demo.kernel 0).state = .ready ∧
        0 < (demo.kernel 0).inUse) ∧
      ¬ ((demo.kernel 3).state = .ready ∧ 0 < (demo.kernel 3).inUse) := by
  try dsimp only
  repeat' apply And.intro
  all_goals decide +kernel

/-- A LOADING set whose every flag is set, with the rows `rows`. -/
def loaded (rows : List (Nat × List Int)) : State :=
  demo.setKernel 2 { KernelSet.initial with state := .loading, written := BitVec.allOnes 65, rows := rows }

theorem witness_KernelSetsAreValidated :
    (demo.Ready (.validateKernelSet h0 0) h0 ∧ (demo.kernel 0).state = .ready) ∧
      (demo.Ready (.validateKernelSet h0 1) h0 ∧ (demo.kernel 1).state = .empty) ∧
      (demo.Ready (.validateKernelSet h0 2) h0 ∧ (demo.kernel 2).state = .loading ∧ (demo.kernel 2).written.getLsbD 1 = false ∧
        ∀ q, q < 1 → (demo.kernel 2).written.getLsbD q = true) ∧
      ((loaded [(0, [32704]), (1, [32703])]).Ready (.validateKernelSet h0 2) h0 ∧
        (∀ q, q ≤ 64 → ((loaded [(0, [32704]), (1, [32703])]).kernel 2).written.getLsbD q = true) ∧
        (((loaded [(0, [32704]), (1, [32703])]).kernel 2).row 1).sum < 32704 ∧
        ∀ q, q < 1 → 32704 ≤ (((loaded [(0, [32704]), (1, [32703])]).kernel 2).row q).sum ∧
          (((loaded [(0, [32704]), (1, [32703])]).kernel 2).row q).sum ≤ 32832) ∧
      ((loaded KernelSet.linear.rows).Ready (.validateKernelSet h0 2) h0 ∧
        ∀ q, q ≤ 64 → 32704 ≤ (((loaded KernelSet.linear.rows).kernel 2).row q).sum ∧
          (((loaded KernelSet.linear.rows).kernel 2).row q).sum ≤ 32832) := by
  try dsimp only
  repeat' apply And.intro
  all_goals decide +kernel

/-- Set 4, and each operand one beyond its bound. -/
theorem witness_kernel_refusals :
    demo.Ready (.loadKernelRows h0 4 0 1 (List.replicate 16 0)) h0 ∧ demo.Ready (.validateKernelSet h0 4) h0 ∧
      (demo.Ready (.loadKernelRows h0 3 0 5 (List.replicate 64 0)) h0 ∧ ¬ 5 ≤ 4) ∧
      (demo.Ready (.loadKernelRows h0 3 0 0 (List.replicate 16 0)) h0 ∧ ¬ 1 ≤ 0) ∧
      (demo.Ready (.loadKernelRows h0 3 0 2 (List.replicate 16 (0 : Int))) h0 ∧ (List.replicate 16 (0 : Int)).length ≠ 16 * 2) ∧
      (demo.Ready (.loadKernelRows h0 3 0 1 (List.replicate 16 65536)) h0 ∧
        ¬ ∀ c ∈ List.replicate 16 (65536 : Int), -65536 ≤ c ∧ c ≤ 65535) ∧
      (demo.Ready (.loadKernelRows h0 3 0 1 (List.replicate 16 (-65537))) h0 ∧
        ¬ ∀ c ∈ List.replicate 16 (-65537 : Int), -65536 ≤ c ∧ c ≤ 65535) ∧
      (demo.Ready (.loadKernelRows h0 3 62 4 (List.replicate 64 0)) h0 ∧ ¬ 62 + 4 ≤ 65) := by
  try dsimp only
  repeat' apply And.intro
  all_goals decide +kernel

theorem witness_ArithmeticFollowsTheManual :
    (KernelSet.linear.row (262143 / 262144)).length = 16 ∧ (KernelSet.linear.row (16777215 / 262144 + 1)).length = 16 ∧
      (List.replicate 16 (0 : Sample)).length = 16 := by
  try dsimp only
  repeat' apply And.intro
  all_goals decide +kernel

theorem witness_OpenFeedPrimes :
    (demo.Ready (.openFeed h0 127 3 3 8 65535 1 1 (some 0)) h0 ∧ onOff? 1 = some true ∧ Link.ofNat? 1 = some .l1 ∧
        (demo.feed 127).state = .closed ∧ (demo.kernel 3).state = .ready ∧ 8 ≤ demo.freeList.length) ∧
      (let s : State := { demo with freeList := [9] }
       s.Ready (.openFeed h0 0 0 0 1 0 0 0 none) h0 ∧ (s.kernel 0).state = .ready ∧ 1 ≤ s.freeList.length) := by
  try dsimp only
  repeat' apply And.intro
  all_goals decide +kernel

theorem witness_OpenFeedChecksInOrder :
    stopped.Ready (.openFeed h0 128 4 4 3 0 2 2 none) h0 ∧ demo.Ready (.openFeed h0 128 4 4 3 0 2 2 none) h0 ∧
      demo.Ready (.openFeed h0 127 4 4 3 0 2 2 none) h0 ∧ demo.Ready (.openFeed h0 127 3 4 8 0 1 1 none) h0 ∧
      (demo.Ready (.openFeed h0 1 3 1 8 0 1 1 none) h0 ∧ (demo.feed 1).state ≠ .closed) ∧
      (demo.Ready (.openFeed h0 127 3 1 8 0 1 1 none) h0 ∧ (demo.feed 127).state = .closed ∧ (demo.kernel 1).state ≠ .ready) ∧
      (let s : State := { demo with freeList := List.range 7 }
       s.Ready (.openFeed h0 127 3 0 8 0 1 1 none) h0 ∧ (s.kernel 0).state = .ready ∧ s.freeList.length < 8) := by
  try dsimp only
  repeat' apply And.intro
  all_goals decide +kernel

theorem witness_CloseFeedClosesOrDrains :
    (demo.Ready (.closeFeed h0 4 1) h0 ∧ (demo.feed 4).state ≠ .closed) ∧
      (demo.Ready (.closeFeed h0 2 2) h0 ∧ (demo.feed 2).state ≠ .closed ∧ (demo.feed 2).state ≠ .draining ∧
        (demo.feed 2).fill ≠ 0) ∧
      (demo.Ready (.closeFeed h0 5 2) h0 ∧ (demo.feed 5).state = .draining) ∧
      (demo.Ready (.closeFeed h0 6 2) h0 ∧ (demo.feed 6).state ≠ .closed ∧ (demo.feed 6).state ≠ .draining ∧
        (demo.feed 6).fill = 0) ∧
      demo.Ready (.closeFeed h0 127 3) h0 ∧ (demo.Ready (.closeFeed h0 127 2) h0 ∧ (demo.feed 127).state = .closed) := by
  try dsimp only
  repeat' apply And.intro
  all_goals decide +kernel

theorem witness_RetuneAndTargetResetTheServo :
    (demo.feed 2).state ≠ .closed ∧ demo.Ready (.retuneFeed h0 2 3 none) h0 ∧
      (demo.Ready (.retuneFeed h0 2 3 (some 3)) h0 ∧ 3 ≠ (demo.feed 2).kernel ∧ (demo.kernel 3).state = .ready) ∧
      demo.Ready (.setFeedTarget h0 2 65535) h0 := by
  try dsimp only
  repeat' apply And.intro
  all_goals decide +kernel

/-- Feed 128, one above the last, the CLOSED feed 127, and operands out of range; and a RETUNE FEED to the feed's own set. -/
theorem witness_feed_refusals :
    (demo.feed 127).state = .closed ∧ demo.Ready (.closeFeed h0 128 1) h0 ∧
      (demo.Ready (.retuneFeed h0 128 0 none) h0 ∧ demo.Ready (.retuneFeed h0 127 4 none) h0 ∧
        demo.Ready (.retuneFeed h0 127 3 (some 4)) h0 ∧ demo.Ready (.retuneFeed h0 127 3 (some 3)) h0 ∧
        (demo.Ready (.retuneFeed h0 2 3 (some 1)) h0 ∧ (demo.feed 2).state ≠ .closed ∧ (demo.kernel 1).state ≠ .ready)) ∧
      (demo.Ready (.retuneFeed h0 2 3 (some 0)) h0 ∧ (demo.feed 2).kernel = 0 ∧ (demo.kernel 0).state = .ready) ∧
      demo.Ready (.setFeedTarget h0 128 16) h0 ∧ demo.Ready (.setFeedTarget h0 127 16) h0 ∧
      (demo.Ready (.holdFeed h0 128) h0 ∧ demo.Ready (.releaseFeed h0 128) h0 ∧ demo.Ready (.holdFeed h0 127) h0 ∧
        demo.Ready (.releaseFeed h0 127) h0) ∧
      (demo.Ready (.readFeed h0 128 1) h0 ∧ demo.Ready (.readFeed h0 127 0) h0 ∧ demo.Ready (.readFeed h0 127 3) h0 ∧
        demo.Ready (.ackFeedEvents h0 128 0) h0 ∧ demo.Ready (.ackFeedEvents h0 127 2) h0) := by
  try dsimp only
  repeat' apply And.intro
  all_goals decide +kernel

/-- A flow queue of 16 frames, the fourth of them of stream 210. -/
def fullFlow : List FlowFrame :=
  (List.range 16).map fun n => { pause := true, stream := 207 + n, fill := 0, capacity := 256 }

/-- The demonstration device with feed 2 paused, and the flow queue `q` at its return link. -/
def flowing (q : List FlowFrame) : State :=
  (demo.setFeed 2 { demo.feed 2 with paused := true, autoFlow := true, critical := true }).setArb .l0
    { Arbiter.initial with flowQueue := q }

theorem witness_HoldAndReleaseSendFlow :
    demo.Ready (.holdFeed h0 4) h0 ∧ (demo.feed 4).state ≠ .closed ∧
      (let s := demo.setFeed 2 { demo.feed 2 with paused := true }
       s.Ready (.releaseFeed h0 2) h0 ∧ (s.feed 2).paused = true ∧ ¬ ((s.feed 2).autoFlow = true ∧ (s.feed 2).critical = true)) ∧
      (demo.Ready (.releaseFeed h0 1) h0 ∧ (demo.feed 1).paused = false) ∧
      ((flowing []).Ready (.releaseFeed h0 2) h0 ∧ ((flowing []).feed 2).autoFlow = true ∧ ((flowing []).feed 2).critical = true) ∧
      (demo.feed 1).binding = none ∧ (demo.feed 2).binding = some (.l0, 210) ∧
      ({ demo with links := PerLink.both LinkState.initial } : State).linkUp (demo.feed 2).returnLink = false ∧
      (demo.linkUp (demo.feed 2).returnLink = true ∧ ((flowing (fullFlow.drop 1)).arb .l0).flowQueue.length < 16) ∧
      (∃ q r old, ((flowing fullFlow).arb .l0).flowQueue = q ++ old :: r ∧ 16 ≤ q.length + r.length + 1 ∧ old.stream = 210 ∧
        ∀ g ∈ q, g.stream ≠ 210) ∧
      (let q := fullFlow.map fun f => { f with stream := f.stream + 16 }
       16 ≤ ((flowing q).arb .l0).flowQueue.length ∧ ∀ g ∈ ((flowing q).arb .l0).flowQueue, g.stream ≠ 210) := by
  refine ⟨?_, ?_, ?_, ?_, ?_, ?_, ?_, ?_, ?_, ?_, ?_⟩
  case refine_10 =>
    exact ⟨fullFlow.take 3, fullFlow.drop 4, { pause := true, stream := 210, fill := 0, capacity := 256 }, by decide +kernel⟩
  all_goals (try dsimp only); repeat' apply And.intro
  all_goals decide +kernel

/-- The demonstration device with feed 2 at fill `n` of 256 under auto-flow, paused or not, critical or not, with repeat parity `q`. -/
def level (n : Nat) (paused critical q : Bool) : State :=
  demo.setFeed 2 { feedIn .running 1 n with autoFlow := true, paused := paused, critical := critical, parity := q }

/-- Fills one below and at three quarters, and one below and at half, of the capacity. -/
theorem witness_flow_checks :
    (let x := (level 191 true false false).feed 2; x.hold = false ∧ x.critical = false ∧ ¬ 3 * (256 * x.pages.length) / 4 ≤ x.fill) ∧
      (let x := (level 192 false false false).feed 2; x.autoFlow = true ∧ 3 * (256 * x.pages.length) / 4 ≤ x.fill ∧ x.paused = false) ∧
      (((level 192 true true false).feed 2).paused = true ∧ ((level 192 true true false).feed 2).parity = false) ∧
      (((level 192 true true true).feed 2).paused = true ∧ ((level 192 true true true).feed 2).parity = true) ∧
      (let x := (level 127 true true false).feed 2; x.paused = true ∧ x.autoFlow = true ∧ x.hold = false ∧ ¬ 256 * x.pages.length / 2 ≤ x.fill) ∧
      (let x := (level 128 true true false).feed 2; x.critical = true ∧ 256 * x.pages.length / 2 ≤ x.fill) := by
  try dsimp only
  repeat' apply And.intro
  all_goals decide +kernel

theorem witness_FeedsAreReadAndAcknowledged :
    demo.Ready (.readFeed h0 127 1) h0 ∧ demo.Ready (.readFeed h0 0 2) h0 ∧ demo.Ready (.ackFeedEvents h0 2 0) h0 ∧
      demo.Ready (.ackFeedEvents h0 2 1) h0 := by
  try dsimp only
  repeat' apply And.intro
  all_goals decide +kernel

/-- A set flag and a clear one; 55 and 56 entries, a held place counted. -/
theorem witness_sticky_events :
    ({ feedIn .running 1 0 with sticky := 512 } : Feed).sticky.getLsbD Sticky.stateClosed.bit = true ∧
      (demo.feed 2).sticky.getLsbD Sticky.streamConflict.bit = false ∧
      (let s : State := { crammed with reports := crammed.reports.take 55 }
       s.reports.length + (if s.heldPlace then 1 else 0) < 56) ∧
      (let s : State := { crammed with reports := crammed.reports.take 55, heldPlace := true }
       56 ≤ s.reports.length + (if s.heldPlace then 1 else 0)) := by
  try dsimp only
  repeat' apply And.intro
  all_goals decide +kernel

/-- A frame of stream `st` with sequence `q` and `n` samples. -/
def frame0 (st q n : Nat) : SampleFrame :=
  { contentClass := 0, rateCode := 1, stream := st, sequence := q, program := 0, language := 0, samples := List.replicate n 1 }

/-- The boundaries of R59's distances, 0, 1, 8, 9, 32,767, 32,768 and 65,535 after expected sequence 100. -/
theorem witness_ArrivalsAreCheckedAndWritten :
    (demo.feed 0).state = .closed ∧
      ((demo.feed 2).state ≠ .closed ∧ (demo.feed 2).binding = some (.l0, 210) ∧ (Link.l0, 210) ≠ (Link.l1, 210)) ∧
      ((demo.feed 4).state = .draining ∧ (demo.feed 4).binding = none) ∧
      ((demo.feed 1).state = .priming ∧ (demo.feed 1).binding = none ∧ { frame0 210 0 1 with rateCode := 0 }.rateCode ≠
        (demo.feed 1).rateCode) ∧
      ((demo.feed 2).state = .running ∧ (frame0 210 100 64).rateCode = (demo.feed 2).rateCode ∧
        (demo.feed 2).expected = some (frame0 210 100 64).sequence ∧
        (frame0 210 100 64).samples.length ≤ (demo.feed 2).capacity - (demo.feed 2).fill) ∧
      ((demo.feed 3).state = .starved ∧ (demo.feed 3).expected = none ∧
        (frame0 210 65535 236).samples.length ≤ (demo.feed 3).capacity - (demo.feed 3).fill ∧
        (demo.feed 3).capacity - (demo.feed 3).fill < (frame0 210 65535 237).samples.length) ∧
      ((demo.feed 2).expected = some 100 ∧ (frame0 210 101 1).sequence = (100 + 1) % 65536 ∧
        (frame0 210 108 1).sequence = (100 + 8) % 65536 ∧ (frame0 210 109 1).sequence = (100 + 9) % 65536 ∧
        (frame0 210 32867 1).sequence = (100 + 32767) % 65536 ∧ (frame0 210 32868 1).sequence = (100 + 32768) % 65536 ∧
        (frame0 210 99 1).sequence = (100 + 65535) % 65536) := by
  try dsimp only
  repeat' apply And.intro
  all_goals decide +kernel

theorem witness_PoolIsRead :
    demo.Ready (.readPool h0 1 none) h0 ∧ demo.Ready (.readPool h0 2 (some 127)) h0 ∧ demo.Ready (.readPool h0 3 (some 63)) h0 ∧
      demo.Ready (.readPool h0 4 (some 127)) h0 ∧ demo.Ready (.readPool h0 5 (some 63)) h0 ∧
      demo.Ready (.readPool h0 6 (some 511)) h0 ∧ demo.Ready (.readPool h0 0 none) h0 ∧ demo.Ready (.readPool h0 7 none) h0 ∧
      demo.Ready (.readPool h0 1 (some 0)) h0 ∧ demo.Ready (.readPool h0 2 none) h0 ∧ demo.Ready (.readPool h0 4 (some 128)) h0 ∧
      demo.Ready (.readPool h0 5 (some 64)) h0 ∧ demo.Ready (.readPool h0 6 (some 512)) h0 := by
  try dsimp only
  repeat' apply And.intro
  all_goals decide +kernel

/-- A FREE page at each end of the free list, a page of a feed and the second page of a bus. -/
theorem witness_pages_have_places :
    (demo.Ready (.readPool h0 6 (some 8)) h0 ∧ demo.owner 8 = .free ∧ demo.freeList = [] ++ 8 :: List.range' 9 503) ∧
      (demo.owner 511 = .free ∧ demo.freeList = List.range' 8 503 ++ 511 :: [] ∧ 511 ∉ List.range' 8 503) ∧
      (demo.Ready (.readPool h0 6 (some 0)) h0 ∧ demo.owner 0 = .feed 1 ∧ (demo.feed 1).pages = [] ++ 0 :: []) ∧
      (demo.Ready (.readPool h0 6 (some 5)) h0 ∧ demo.owner 5 = .bus 2 ∧ (demo.bus 2).pages = [4] ++ 5 :: [] ∧ 5 ∉ [4]) := by
  try dsimp only
  repeat' apply And.intro
  all_goals decide +kernel

/-- The demonstration device with `n` cues for a later instant. -/
def cues0 (n : Nat) : State :=
  { demo with cues := List.replicate n { time := 9000, command := .busTrim 0 0, tag := 0, origin := .l0, acked := false } }

/-- V is 4,800; lateness at 0, 480 and 481; 255 and 256 cues. -/
theorem witness_TimedCommandsAreQueued :
    (let s : State := { demo with roles := PerLink.both .mix }
     s.Takes (.startEngine (at0 9)) (at0 9) ∧ permitted (s.roles.get (at0 9).link) (.startEngine (at0 9)) = false) ∧
      stopped.Takes (.readTime (at0 9)) (at0 9) ∧
      (demo.Takes (.readTime (at0 9)) (at0 9) ∧ cueCommand? (.readTime (at0 9)) = none) ∧
      (let h := { at0 9 with lenOk := false }
       demo.Takes (.setBusTrim h 0 1) h ∧ cueCommand? (.setBusTrim h 0 1) = some (.busTrim 0 1)) ∧
      (demo.Takes (.setBusTrim (at0 4800) 64 1) (at0 4800) ∧ demo.cueRefusal (.busTrim 64 1) = some .badIndex) ∧
      (demo.Takes (.setBusTrim (at0 4800) 63 1) (at0 4800) ∧ demo.cueRefusal (.busTrim 63 1) = none ∧
        demo.houseTime ≤ BitVec.ofNat 48 4800 ∧ demo.cues.length < 256) ∧
      ((cues0 255).Takes (.setBusTrim (at0 4320) 63 1) (at0 4320) ∧ BitVec.ofNat 48 4320 < demo.houseTime ∧
        demo.houseTime.toNat - (BitVec.ofNat 48 4320).toNat ≤ demo.lateTolerance ∧ (cues0 255).cues.length < 256) ∧
      (demo.Takes (.setBusTrim (at0 4319) 63 1) (at0 4319) ∧
        demo.lateTolerance < demo.houseTime.toNat - (BitVec.ofNat 48 4319).toNat) ∧
      ((cues0 256).Takes (.setBusTrim (at0 4800) 63 1) (at0 4800) ∧ 256 ≤ (cues0 256).cues.length) := by
  try dsimp only
  repeat' apply And.intro
  all_goals decide +kernel

/-- Cues of an earlier, the same and a later time. -/
theorem witness_a_cue_has_its_place :
    let c : Cue := { time := 9000, command := .busTrim 0 0, tag := 0, origin := .l0, acked := false }
    (∀ d ∈ [{ c with time := 0 }, c], d.time ≤ c.time) ∧ ∀ d ∈ [{ c with time := 9001 }], c.time < d.time := by
  try dsimp only
  repeat' apply And.intro
  all_goals decide +kernel

theorem witness_CueQueueCommandsAct :
    (cues0 3).Ready (.cancelCues h0 0) h0 ∧ (cues0 3).Ready (.readCues h0) h0 ∧ demo.Ready (.setLateTolerance h0 9601) h0 := by
  try dsimp only
  repeat' apply And.intro
  all_goals decide +kernel

theorem witness_CuesAreAppliedAtTheirTime :
    (demo.engine = .run ∧ demo.instant = none) ∧ (withBlock (block0 .move .route 0 1 5)).routeInBlock 5 = true ∧
      (withBlock (block0 .move .route 0 1 5)).routeInBlock 6 = false ∧ demo.routeAt 6 = none ∧
      (demo.routeInBlock 0 = false ∧ demo.routeAt 0 = some route0) ∧ onOff? 1 = some true ∧ busMode? 3 = some .silent ∧
      (demo.feed 127).state = .closed ∧ (demo.feed 4).state ≠ .closed ∧
      ((demo.feed 2).state ≠ .closed ∧ (demo.feed 2).state ≠ .draining ∧ (demo.feed 2).fill ≠ 0) := by
  try dsimp only
  repeat' apply And.intro
  all_goals decide +kernel

theorem witness_cues_drain_feeds :
    (demo.feed 4).state = .draining ∧
      ((demo.feed 6).state ≠ .closed ∧ (demo.feed 6).state ≠ .draining ∧ (demo.feed 6).fill = 0) := by
  try dsimp only
  repeat' apply And.intro
  all_goals decide +kernel

theorem witness_WindowsAndDefaultsAreSet :
    demo.Ready (.setWindow h0 7 1 3 4095 4095 4095 1 1) h0 ∧ onOff? 0 = some false ∧ filter? 3 = some .either ∧
      demo.Ready (.readWindow h0 7 1) h0 ∧ demo.Ready (.setDefaultRule h0 1 2 127 0) h0 ∧ verdict? 2 = some .discard ∧
      demo.Ready (.readDefaultRule h0 0 1) h0 ∧ Link.ofNat? 0 = some .l0 := by
  try dsimp only
  repeat' apply And.intro
  all_goals decide +kernel

/-- Window 8, link 2, feed 128, and each operand one beyond its bound. -/
theorem witness_window_and_default_refusals :
    demo.Ready (.setWindow h0 8 0 1 0 0 0 0 0) h0 ∧ demo.Ready (.setWindow h0 7 2 1 0 0 0 0 0) h0 ∧
      demo.Ready (.setWindow h0 7 0 0 0 0 0 0 0) h0 ∧ demo.Ready (.setWindow h0 7 0 4 0 0 0 0 0) h0 ∧
      demo.Ready (.setWindow h0 7 0 1 4096 0 0 0 0) h0 ∧ demo.Ready (.setWindow h0 7 0 1 0 4096 0 0 0) h0 ∧
      demo.Ready (.setWindow h0 7 0 1 0 0 4096 0 0) h0 ∧ demo.Ready (.setWindow h0 7 0 1 0 0 0 2 0) h0 ∧
      demo.Ready (.setWindow h0 7 0 1 0 0 0 0 2) h0 ∧ demo.Ready (.readWindow h0 8 0) h0 ∧ demo.Ready (.readWindow h0 7 2) h0 ∧
      demo.Ready (.setDefaultRule h0 2 1 0 0) h0 ∧ demo.Ready (.setDefaultRule h0 1 1 128 0) h0 ∧
      demo.Ready (.setDefaultRule h0 1 3 127 0) h0 ∧ demo.Ready (.setDefaultRule h0 1 1 127 2) h0 ∧
      demo.Ready (.readDefaultRule h0 2 0) h0 ∧ demo.Ready (.readDefaultRule h0 1 2) h0 := by
  try dsimp only
  repeat' apply And.intro
  all_goals decide +kernel

/-- The demonstration device with window 7 open to every stream of both links. -/
def windowed : State := { demo with windows := [(7, { Window.initial with enabled := true })] }

/-- A frame of feed 2's stream that the narrow rules match. -/
def narrowFrame : SampleFrame := { frame0 210 0 1 with contentClass := 3 }

theorem witness_FramesAreClassified :
    ((windowed.window 7).takes .l0 210 = true ∧ ∀ m, m < 7 → (windowed.window m).takes .l0 210 = false) ∧
      (∀ n, n ≤ 7 → (demo.window n).takes .l0 210 = false) ∧ (∀ n, n ≤ 7 → (stopped.window n).takes .l0 210 = false) ∧
      (9 < demo.tableSize .admission ∧ demo.ruleMatches .l0 narrowFrame 9 = true ∧
        (∀ j, j < demo.tableSize .admission → 9 < j → demo.ruleMatches .l0 narrowFrame j = false) ∧
        demo.entry .admission 9 = .narrow rule0) ∧
      (let s := demo.setEntry .admission 9 .empty
       let fr := { narrowFrame with program := 1, language := 5 }
       s.ruleMatches .l0 fr 2 = true ∧ (∀ j, j < s.tableSize .admission → 2 < j → s.ruleMatches .l0 fr j = false) ∧
         s.entry .admission 2 = .wideHead rule0) ∧
      (∀ j, j < demo.tableSize .admission → demo.ruleMatches .l0 (frame0 211 0 1) j = false) := by
  try dsimp only
  repeat' apply And.intro
  all_goals decide +kernel

/-- Queues of 31 and 32 frames, a DOWN link, and a slot of each kind. -/
theorem witness_frames_are_matched_and_forwarded :
    let q := fun n => List.replicate n ({ window := 7, frame := frame0 1 1 1 } : PassFrame)
    (({ Window.initial with mask := 4095, translate := 4095 } : Window).mask < 4096 ∧ 4095 < 4096) ∧
      (demo.linkUp .l1 = true ∧ ((demo.setArb .l1 { Arbiter.initial with passQueue := q 31 }).arb .l1).passQueue.length < 32) ∧
      32 ≤ ((demo.setArb .l1 { Arbiter.initial with passQueue := q 32 }).arb .l1).passQueue.length ∧
      ({ demo with links := PerLink.both LinkState.initial } : State).linkUp .l1 = false ∧
      (demo.entry .admission 0 = .narrow rule0 ∧ demo.entry .admission 2 = .wideHead rule0 ∧
        demo.entry .admission 3 = .continuation wide0 ∧ demo.entry .admission 127 = .empty) := by
  try dsimp only
  repeat' apply And.intro
  all_goals decide +kernel

theorem witness_BanksAndImagesArePlaced :
    (stopped.Ready (.assignBank h0 15 1) h0 ∧ 15 ∉ stopped.admissionBanks ∧ 15 ∉ stopped.routeBanks) ∧
      (stopped.Ready (.assignBank h0 0 2) h0 ∧ 0 ∉ stopped.admissionBanks ∧ 0 ∉ stopped.routeBanks) ∧
      (demo.Ready (.stageRule h0 1 1 key0 none 1 127) h0 ∧ ruleState? 1 = some true ∧ verdict? 1 = some .accept ∧
        narrowKeyFits key0 = true) ∧
      (demo.Ready (.stageRule h0 2 2 key0 (some wide0) 2 127) h0 ∧ wideKeyFits wide0 = true) ∧
      (demo.Ready (.stageRoute h0 127 63 2 65535) h0 ∧ polarity? 2 = some .inverted) ∧ demo.Ready (.clearStaging h0) h0 := by
  try dsimp only
  repeat' apply And.intro
  all_goals decide +kernel

/-- Bank 16, table 3, banks of either table, feed 128, bus 64, and operands out of range. -/
theorem witness_bank_and_image_refusals :
    (demo.Ready (.assignBank h0 15 1) h0 ∧ demo.engine = .run) ∧ stopped.Ready (.assignBank h0 16 1) h0 ∧
      stopped.Ready (.assignBank h0 15 3) h0 ∧
      (stopped.Ready (.assignBank h0 3 2) h0 ∧ 3 ∈ stopped.admissionBanks) ∧
      (stopped.Ready (.assignBank h0 5 1) h0 ∧ 5 ∈ stopped.routeBanks) ∧
      (demo.Ready (.stageRule h0 1 3 key0 none 1 0) h0 ∧ ¬ (3 = 1 ∨ 3 = 2)) ∧
      (demo.Ready (.stageRule h0 1 1 { key0 with streamC := 4096 } none 1 0) h0 ∧ ¬ 4096 < 4096) ∧
      (demo.Ready (.stageRule h0 2 1 key0 none 1 0) h0 ∧ (none : Option WideKey) ≠ some wide0) ∧
      (demo.Ready (.stageRule h0 1 1 key0 none 1 128) h0 ∧ narrowKeyFits key0 = true) ∧ demo.Ready (.stageRoute h0 128 0 1 0) h0 ∧
      demo.Ready (.stageRoute h0 0 64 1 0) h0 ∧ demo.Ready (.stageRoute h0 127 63 3 0) h0 := by
  try dsimp only
  repeat' apply And.intro
  all_goals decide +kernel

/-- The demonstration device with the image `i` staged on link 0. -/
def staged (i : Image) : State := { demo with staging := demo.staging.set .l0 i }

theorem witness_RoutesAreWritten :
    ((staged .empty).Ready (.writeEntry h0 2 127) h0 ∧ 127 < ((staged .empty).handedBetween h0).tableSize .route ∧
        ((staged .empty).handedBetween h0).locked .route [127] = false) ∧
      ((staged (.route 9 9 .normal 1)).Ready (.writeEntry h0 2 0) h0 ∧ demo.routeAt 0 ≠ none) ∧
      ((staged (.route 2 2 .normal 1)).Ready (.writeEntry h0 2 127) h0 ∧ demo.routeAt 127 = none ∧ demo.routeAt 0 = some route0 ∧
        route0.feed = 2 ∧ route0.bus = 2) ∧
      ((staged (.route 9 9 .normal 1)).Ready (.writeEntry h0 2 127) h0 ∧
        ∀ j, j < demo.tableSize .route → (demo.routeAt j).all (fun r => !decide (r.feed = 9 ∧ r.bus = 9)) = true) := by
  try dsimp only
  repeat' apply And.intro
  all_goals decide +kernel

theorem witness_RulesAreWritten :
    ((staged .empty).Ready (.writeEntry h0 1 128) h0 ∧ demo.tableSize .admission ≤ 128) ∧
      ((staged (.route 0 0 .normal 0)).Ready (.writeEntry h0 1 127) h0 ∧
        (Image.route 0 0 .normal 0).fits .admission = false) ∧
      ((staged (.wide true key0 wide0 .accept 0)).Ready (.writeEntry h0 1 127) h0 ∧ 127 % 2 = 1) ∧
      (let s : State := { staged .empty with block := some (block0 .fill .admission 127 1 0) }
       s.Ready (.writeEntry h0 1 127) h0 ∧ s.locked .admission (s.touched .admission 127 .empty) = true) ∧
      (let img : Image := .narrow true key0 .accept 0
       (staged img).Ready (.writeEntry h0 1 3) h0 ∧ demo.activeAt .admission 3 = true ∧ 3 ∈ demo.touched .admission 3 img ∧
         demo.locked .admission (demo.touched .admission 3 img) = false) ∧
      ((staged .empty).Ready (.writeEntry h0 1 3) h0 ∧ demo.locked .admission (demo.touched .admission 3 .empty) = false) ∧
      (let img : Image := .narrow true key0 .accept 0
       (staged img).Ready (.writeEntry h0 1 7) h0 ∧ ∀ j ∈ demo.touched .admission 7 img, demo.activeAt .admission j = false) ∧
      (let img : Image := .wide true key0 wide0 .accept 0
       (staged img).Ready (.writeEntry h0 1 4) h0 ∧ ∀ j ∈ demo.touched .admission 4 img, demo.activeAt .admission j = false) := by
  try dsimp only
  repeat' apply And.intro
  all_goals decide +kernel

/-- The demonstration device with a block operation over the last slot of each kind of table. -/
def lockedAt (t : TableId) : State := { staged .empty with block := some (block0 .fill t 127 1 0) }

/-- Table 3, index 128, a rule image over a route, and the slot of an operation. -/
theorem witness_write_refusals :
    (demo.Ready (.writeEntry h0 0 0) h0 ∧ demo.Ready (.writeEntry h0 3 0) h0) ∧
      (demo.Ready (.writeEntry h0 2 128) h0 ∧ (demo.handedBetween h0).tableSize .route ≤ 128) ∧
      (let s := staged (.narrow true key0 .accept 0)
       s.Ready (.writeEntry h0 2 127) h0 ∧ (s.handedBetween h0).staging.get .l0 = .narrow true key0 .accept 0) ∧
      ((lockedAt .route).Ready (.writeEntry h0 2 127) h0 ∧ ((lockedAt .route).handedBetween h0).locked .route [127] = true) ∧
      (demo.Ready (.readEntry h0 0 0) h0 ∧ demo.Ready (.readEntry h0 3 0) h0 ∧ demo.Ready (.readEntry h0 1 128) h0 ∧
        demo.Ready (.readEntry h0 2 128) h0 ∧ demo.tableSize .admission ≤ 128) ∧
      (demo.Ready (.enableRule h0 128) h0 ∧ demo.Ready (.disableRule h0 128) h0) ∧
      ((lockedAt .admission).Ready (.enableRule h0 127) h0 ∧
        (lockedAt .admission).locked .admission (127 :: (lockedAt .admission).ruleSlots 127) = true) := by
  try dsimp only
  repeat' apply And.intro
  all_goals decide +kernel

theorem witness_RulesAreReadAndSwitched :
    (demo.Ready (.readEntry h0 2 0) h0 ∧ (demo.handedBetween h0).routeAt 0 = some route0) ∧
      (demo.Ready (.readEntry h0 2 127) h0 ∧ (demo.handedBetween h0).routeAt 127 = none) ∧
      (demo.Ready (.readEntry h0 1 0) h0 ∧ demo.entry .admission 0 = .narrow rule0) ∧
      (demo.Ready (.readEntry h0 1 3) h0 ∧ demo.entry .admission 2 = .wideHead rule0 ∧
        demo.entry .admission 3 = .continuation wide0) ∧
      (demo.Ready (.readEntry h0 1 127) h0 ∧ demo.entry .admission 127 = .empty) ∧
      (demo.Ready (.disableRule h0 0) h0 ∧ demo.locked .admission (0 :: demo.ruleSlots 0) = false) ∧
      (demo.Ready (.enableRule h0 7) h0 ∧ demo.locked .admission (7 :: demo.ruleSlots 7) = false ∧
        demo.entry .admission 6 = .wideHead rule1 ∧ demo.entry .admission 7 = .continuation wide0) ∧
      demo.Ready (.enableRule h0 127) h0 := by
  try dsimp only
  repeat' apply And.intro
  all_goals decide +kernel

/-- Ranges that end at the last index of each table. -/
theorem witness_BlockOperationsStartOrAreBusy :
    demo.block = none ∧
      (demo.Ready (.move h0 2 0 1 127) h0 ∧ demo.splits .route 0 127 = false) ∧
      (demo.Ready (.move h0 1 124 126 2) h0 ∧ demo.splits .admission 124 2 = false ∧ (126 + 124) % 2 = 0) ∧
      (demo.Ready (.fill h0 2 0 128) h0 ∧ (demo.staging.get .l0).fits .route = true ∧ demo.staging.get .l0 = .empty) ∧
      (let s := staged (.wide true key0 wide0 .accept 0)
       s.Ready (.fill h0 1 126 2) h0 ∧ (s.staging.get .l0).fits .admission = true ∧ s.splits .admission 126 2 = false) ∧
      (demo.Ready (.scan h0 2 127 1 1 2) h0 ∧ scanMode? 2 = some .untilDifferent ∧ 1 < 2 ^ scanFields .route) ∧
      (let s := staged (.wide true key0 wide0 .accept 0)
       s.Ready (.scan h0 1 0 128 1023 1) h0 ∧ 1023 < 2 ^ scanFields .admission ∧ s.splits .admission 0 128 = false) ∧
      (demo.Ready (.clearHits h0 0 128) h0 ∧ demo.splits .admission 0 128 = false) ∧
      ((withBlock (block0 .scan .route 0 1 0)).Ready (.fill h0 9 0 0) h0 ∧ (withBlock (block0 .scan .route 0 1 0)).block ≠ none) := by
  try dsimp only
  repeat' apply And.intro
  all_goals decide +kernel

/-- Each check that refuses, with the checks before it passed. -/
theorem witness_block_refusals :
    (demo.Ready (.move h0 3 0 1 1) h0 ∧ demo.Ready (.move h0 1 0 2 0) h0) ∧
      (demo.Ready (.move h0 1 120 0 9) h0 ∧ ¬ 120 + 9 ≤ demo.tableSize .admission) ∧
      (demo.Ready (.move h0 1 0 0 1) h0 ∧ demo.Ready (.move h0 1 0 1 1) h0 ∧ (1 + 0) % 2 = 1) ∧
      (demo.Ready (.move h0 1 3 11 1) h0 ∧ demo.splits .admission 3 1 = true) ∧
      (demo.Ready (.fill h0 0 0 1) h0 ∧ demo.Ready (.fill h0 2 127 2) h0 ∧ ¬ 127 + 2 ≤ demo.tableSize .route) ∧
      (let s := staged (.narrow true key0 .accept 0)
       s.Ready (.fill h0 2 0 1) h0 ∧ (s.staging.get .l0).fits .route = false ∧ s.Ready (.fill h0 1 2 1) h0 ∧
         (s.staging.get .l0).fits .admission = true ∧ s.splits .admission 2 1 = true ∧
         (s.Ready (.scan h0 1 0 1 32 1) h0 ∧ (s.staging.get .l0).isNarrow = true ∧ (32).testBit 5 = true) ∧
         s.Ready (.scan h0 2 0 1 1 1) h0 ∧ (s.Ready (.scan h0 1 7 1 1 1) h0 ∧ s.splits .admission 7 1 = true)) ∧
      (let s := staged (.route 0 0 .normal 0)
       s.Ready (.fill h0 2 0 1) h0 ∧ (s.staging.get .l0).fits .route = true ∧ s.staging.get .l0 ≠ .empty) ∧
      (let s := staged (.wide true key0 wide0 .accept 0)
       s.Ready (.fill h0 1 125 2) h0 ∧ s.Ready (.fill h0 1 126 1) h0 ∧ (s.staging.get .l0).isWide = true ∧ 125 % 2 = 1) ∧
      (demo.Ready (.scan h0 3 0 1 1 1) h0 ∧ demo.Ready (.scan h0 1 0 1 1 3) h0 ∧ demo.Ready (.scan h0 1 0 0 1 1) h0 ∧
        demo.Ready (.scan h0 1 128 1 1 1) h0 ∧ demo.Ready (.scan h0 1 0 1 0 1) h0 ∧ demo.Ready (.scan h0 1 0 1 1024 1) h0 ∧
        demo.Ready (.scan h0 2 0 1 32 1) h0 ∧ (demo.Ready (.scan h0 2 0 1 2 1) h0 ∧ demo.staging.get .l0 = .empty)) ∧
      (demo.Ready (.clearHits h0 0 0) h0 ∧ demo.Ready (.clearHits h0 128 1) h0 ∧ demo.tableSize .admission < 128 + 1) ∧
      (demo.Ready (.clearHits h0 3 1) h0 ∧ demo.splits .admission 3 1 = true) := by
  try dsimp only
  repeat' apply And.intro
  all_goals decide +kernel

theorem witness_BlockOperationsAreControlled :
    (demo.Ready (.suspendBlock h0) h0 ∧ demo.block = none) ∧
      (let s := withBlock (block0 .scan .route 0 1 0)
       s.Ready (.suspendBlock h0) h0 ∧ s.Ready (.resumeBlock h0) h0 ∧ s.Ready (.abandonBlock h0) h0) ∧
      (let s := withBlock { block0 .move .route 0 1 3 with phase := .stopped .destOccupied 3 [3] }
       s.Ready (.suspendBlock h0) h0) ∧
      (let s := withBlock { block0 .scan .route 0 1 0 with acked := false }
       s.Ready (.abandonBlock h0) h0 ∧ s.heldPlace = false) := by
  try dsimp only
  repeat' apply And.intro
  all_goals decide +kernel

/-- MOVE steps over an EMPTY slot, a route, narrow rules and a wide rule named at each of its slots, to destinations that are free and
filled in each way the statement tells apart. -/
theorem witness_MoveStepsCarryEntries :
    demo.entry .route 1 = .empty ∧
      (demo.entry .route 0 = .route route0 ∧ demo.entry .route (0 + 127) = .empty ∧ demo.entry .route (0 + 3) = .route route1) ∧
      (demo.entry .admission 1 = .narrow rule0 ∧ demo.entry .admission (1 + 2) = .continuation wide0 ∧
        demo.entry .admission (1 + 4) = .empty ∧ demo.entry .admission (1 + 8) ≠ .empty) ∧
      (demo.entry .admission 2 = .wideHead rule0 ∧ demo.entry .admission (2 + 1) = .continuation wide0 ∧
        demo.entry .admission (2 + 8) = .empty ∧ demo.entry .admission (3 + 8) = .empty) ∧
      (demo.entry .admission (2 + 2) = .narrow rule1 ∧ demo.entry .admission (3 + 2) = .empty) ∧
      (demo.entry .admission (2 + 6) = .empty ∧ demo.entry .admission (3 + 6) = .narrow rule0) ∧
      (demo.entry .admission (2 + 4) = .wideHead rule1 ∧ demo.entry .admission (3 + 4) ≠ .empty) ∧
      ((withBlock (block0 .move .admission 0 4 4)).block = some (block0 .move .admission 0 4 4) ∧
        (block0 .move .admission 0 4 4).phase = .running) := by
  try dsimp only
  repeat' apply And.intro
  all_goals decide +kernel

theorem witness_StepsFillScanAndClearEntries :
    Cells.wf Slot.empty demo.slots ∧
      ((block0 .fill .route 0 1 0).image = .empty ∧ (block0 .fill .route 0 1 0).phase = .running) ∧
      (let b := { block0 .fill .admission 4 1 0 with image := .narrow true key0 .accept 0 }
       ∀ j ∈ [b.next], demo.activeAt b.table j = false) ∧
      (let b := { block0 .fill .admission 2 2 0 with image := .wide true key0 wide0 .accept 0 }
       [b.next, b.next + 1].filter (demo.activeAt .admission) = 2 :: [3]) ∧
      (block0 .scan .route 127 1 0).scanMatches (demo.imageAt .route 127) = true ∧
      ((block0 .scan .admission 2 2 0).scanMatches (demo.imageAt .admission 2) = false ∧
        demo.entry .admission 2 = .wideHead rule0 ∧ demo.entry .admission 3 = .continuation wide0) ∧
      (block0 .scan .route 0 1 0).scanMatches (demo.imageAt .route 0) = false ∧
      ((block0 .scan .admission 0 1 0).scanMatches (demo.imageAt .admission 0) = false ∧
        demo.entry .admission 0 = .narrow rule0) ∧
      ({ block0 .scan .admission 127 1 0 with mode := .untilDifferent }.scanMatches (demo.imageAt .admission 127) = false ∧
        demo.entry .admission 127 = .empty) ∧
      (selectsWide 0x31F = false ∧ 0x31F < 1024) := by
  try dsimp only
  repeat' apply And.intro
  all_goals decide +kernel

/-- The selectors of every field of a narrow, a wide and a route image, and the one of an EMPTY image. -/
theorem witness_scan_compares :
    (∀ j ∈ [5, 6, 7], (0x31F).testBit j = false) ∧ (1 ≤ 0x31F ∧ 0x31F < 1024) ∧ (1 ≤ 1023 ∧ 1023 < 1024) ∧ (1 ≤ 31 ∧ 31 < 32) ∧
      (block0 .scan .route 0 1 0).selector = 1 ∧ (block0 .scan .route 0 1 0).image = .empty ∧
      (demo.entry .route 0 = .route route0 ∧ demo.entry .admission 0 = .narrow rule0) := by
  try dsimp only
  repeat' apply And.intro
  all_goals decide +kernel

theorem witness_LinkCommandsAct :
    Link.ofNat? 1 = some .l1 ∧ role? 3 = some .none ∧ demo.Ready (.setLinkRole h0 1 3) h0 ∧ demo.Ready (.setReportLink h0 1) h0 ∧
      demo.Ready (.readLinkCounters h0 1 1) h0 := by
  try dsimp only
  repeat' apply And.intro
  all_goals decide +kernel

/-- Link 2, roles 0 and 4, and a clear flag of 2. -/
theorem witness_link_refusals :
    demo.Ready (.setLinkRole h0 2 1) h0 ∧ demo.Ready (.setReportLink h0 2) h0 ∧ demo.Ready (.readLinkCounters h0 2 0) h0 ∧
      demo.Ready (.setLinkRole h0 1 0) h0 ∧ demo.Ready (.setLinkRole h0 1 4) h0 ∧ demo.Ready (.readLinkCounters h0 1 2) h0 := by
  try dsimp only
  repeat' apply And.intro
  all_goals decide +kernel

/-- The demonstration device with link 0 UP or not and history `h`. -/
def sampled (up : Bool) (h : List Bool) : State :=
  { demo with links := demo.links.set .l0 { LinkState.initial with up := up, history := h } }

theorem witness_LinkSamplesAreDebounced :
    (sampled false [false, true, true]).engine ≠ .starting ∧
      ((sampled false [false, true, true]).links.get .l0).up = false ∧
      (debounce ((sampled false [false, true, true]).links.get .l0).history true = [true, true, true]) ∧
      (debounce ((sampled true [false, false]).links.get .l0).history false = [false, false, false]) ∧
      (debounce ((sampled true [true, true, true]).links.get .l0).history false ≠ [false, false, false]) ∧
      (debounce ((sampled true []).links.get .l0).history false ≠ [false, false, false]) := by
  try dsimp only
  repeat' apply And.intro
  all_goals decide +kernel

theorem witness_ArrivingFramesAreChecked :
    demo.engine ≠ .starting ∧ (sampled false []).linkUp .l0 = false ∧ demo.linkUp .l0 = true ∧
      (List.replicate 7 (0 : Byte)).length < 8 ∧
      (4 ≤ ([3, 1, 1, 9] : List Byte).length ∧ ([0, 0, 0, 0] : List Byte) ≠ bytes4 (crc32 [3, 1, 1, 9])) ∧
      (let fr := { frame0 4095 65535 64 with contentClass := 15, rateCode := 3, program := 255, language := 255 }
       fr.contentClass < 16 ∧ fr.rateCode < 4 ∧ fr.stream < 4096 ∧ fr.sequence < 65536 ∧ fr.program < 256 ∧ fr.language < 256 ∧
         1 ≤ fr.samples.length ∧ fr.samples.length ≤ 64) := by
  try dsimp only
  repeat' apply And.intro
  all_goals decide +kernel

/-- Kind 4, eleven bytes of a sample frame, each bad field one beyond its bound, and a credit frame of a bad length, class and mode. -/
theorem witness_malformed_frames :
    (demo.engine ≠ .starting ∧ demo.linkUp .l0 = true) ∧
      (4 ≤ ([4, 0, 0, 0] : List Byte).length ∧ (4 : Byte) ≠ 1 ∧ (4 : Byte) ≠ 2 ∧ (4 : Byte) ≠ 3) ∧
      (List.replicate 10 (0 : Byte)).length < 11 ∧
      ((4 : Byte).getLsbD 2 = true ∧ (8 : Byte).getLsbD 3 = true ∧ 16 ≤ (16 : Byte).toNat ∧ (0 : Byte).toNat = 0 ∧
        64 < (65 : Byte).toNat ∧ ([0, 0] : List Byte).length ≠ 3 * (1 : Byte).toNat) ∧
      (([0] : List Byte) ≠ [] ∧ ((3 : Byte) ≠ 1 ∧ (3 : Byte) ≠ 2)) := by
  try dsimp only
  repeat' apply And.intro
  all_goals decide +kernel

/-- Sixteen commands of link 0, the most a frame holds; at an empty FIFO, a FIFO of four frames, and a link of role NONE. -/
theorem witness_ControlFramesJoinTheFifo :
    let cs : List Instr := List.replicate 16 (.setBusTrim h0 0 5)
    (1 ≤ cs.length ∧ cs.length ≤ 16) ∧
      (∀ i ∈ cs, i.hdr? = some h0 ∧ h0.link = .l0 ∧ h0.lenOk = true ∧ i.wellFormed = true) ∧
      (cs.flatMap fun i => match i.hdr? with | some h => encodeCommand h i | none => []).length ≤ 2040 ∧ demo.linkUp .l0 = true ∧
      (demo.roles.get .l0 ≠ .none ∧ (demo.fifos.get .l0).length < 4) ∧
      4 ≤ (({ demo with fifos := PerLink.both [cs, cs, cs, cs] } : State).fifos.get .l0).length ∧
      ({ demo with roles := PerLink.both .none } : State).roles.get .l0 = .none := by
  try dsimp only
  repeat' apply And.intro
  all_goals decide +kernel

/-- Command areas: of count 0 and 17, of a wrong length, of 2,041 bytes, with a byte left over, and with flag bit 2 set; and a frame of
a command of an unknown code and one of a bad operand length. -/
theorem witness_malformed_control_frames :
    (¬ 1 ≤ (0 : Byte).toNat ∧ ¬ (17 : Byte).toNat ≤ 16) ∧
      ((1 ≤ (16 : Byte).toNat ∧ (16 : Byte).toNat ≤ 16) ∧ ¬ ([] : List Byte).length = (0 : Byte).toNat * 256 + (1 : Byte).toNat ∧
        ¬ (List.replicate 2041 (0 : Byte)).length + 8 ≤ 2048) ∧
      (let area : List Byte := [7, 4, 0, 0, 0]
       (1 ≤ (1 : Byte).toNat ∧ (1 : Byte).toNat ≤ 16) ∧ area.length + 8 ≤ 2048 ∧
         area.length = (0 : Byte).toNat * 256 + (5 : Byte).toNat ∧ [area].length = (1 : Byte).toNat ∧ [area].flatten = area ∧
         ([] : List Byte).length = (0 : Byte).toNat + (if (4 : Byte).getLsbD 1 then 6 else 0) ∧ 4 ≤ (area.getD 1 0).toNat) ∧
      (let rs : List RawCommand := [⟨0x60, 1, 65535, none, [1]⟩, ⟨0x07, 3, 0, some 281474976710655, List.replicate 255 0⟩]
       (1 ≤ rs.length ∧ rs.length ≤ 16) ∧
         (∀ r ∈ rs, r.flags.toNat < 4 ∧ r.flags.getLsbD 1 = r.timed.isSome ∧ r.tag < 65536 ∧ r.ops.length < 256) ∧
         281474976710655 < 2 ^ 48 ∧ demo.roles.get .l0 ≠ .none ∧ (demo.fifos.get .l0).length < 4) := by
  try dsimp only
  repeat' apply And.intro
  all_goals decide +kernel

/-- No command fills an area of six bytes whose command says it has five. -/
theorem witness_area_left_over : ∀ parts : List (List Byte),
    ¬ (parts.length = 1 ∧ parts.flatten = [7, 0, 0, 0, 0, 9] ∧ ∀ p ∈ parts, ∃ code flags t1 t0 m rest,
      p = code :: flags :: t1 :: t0 :: m :: rest ∧ rest.length = m.toNat + (if flags.getLsbD 1 then 6 else 0)) := by
  rintro parts ⟨h1, h2, h3⟩
  obtain ⟨p, rfl⟩ := List.length_eq_one_iff.1 h1
  obtain ⟨code, flags, t1, t0, m, rest, hp, hl⟩ := h3 p (List.mem_singleton_self p)
  rw [List.flatten_cons, List.flatten_nil, List.append_nil, hp] at h2
  injection h2 with _ h2
  injection h2 with hf h2
  injection h2 with _ h2
  injection h2 with _ h2
  injection h2 with hm h2
  rw [hf, hm, h2] at hl
  exact absurd hl (by decide)

theorem witness_CommandBytesReadBack :
    ((Instr.openFeed h0 255 255 255 255 65535 255 255 (some 281474976710655)).hdr? = some h0 ∧
        (Instr.openFeed h0 255 255 255 255 65535 255 255 (some 281474976710655)).wellFormed = true) ∧
      ((Instr.loadKernelRows p1 3 61 4 (List.replicate 64 (-8388608))).hdr? = some p1 ∧
        (Instr.loadKernelRows p1 3 61 4 (List.replicate 64 (-8388608))).wellFormed = true) ∧
      ((Instr.unknownCommand (at0 281474976710655) 255).wellFormed = true) ∧ h0.lenOk = true := by
  try dsimp only
  repeat' apply And.intro
  all_goals decide +kernel

theorem witness_bus_frame_shape :
    let f : BusFrame := { link := .l1, sequence := 65535, t0 := 9, k := 2, buses := [1, 63], rows := [[1, 2], [3, 4]] }
    f.rows.length = f.k ∧ ∀ row ∈ f.rows, row.length = f.buses.length := by
  try dsimp only
  repeat' apply And.intro
  all_goals decide +kernel

theorem witness_SampleInstantAdvancesTime :
    demo.engine = .run ∧ demo.instant = none ∧ ({ demo with instant := some InstantWork.initial } : State).instant ≠ none ∧
      stopped.engine ≠ .run := by
  try dsimp only
  repeat' apply And.intro
  all_goals decide +kernel

/-- An ENABLING and a DISABLING bus, without a link and with a link at a multiple of its K. -/
theorem witness_BusesSettle :
    ((demo.inInstant.settleTo 1).work.nextBus = 1 ∧ ((demo.inInstant.settleTo 1).bus 1).link = none ∧
        ((demo.inInstant.settleTo 1).bus 1).state = .enabling) ∧
      ((demo.inInstant.settleTo 3).work.nextBus = 3 ∧ ((demo.inInstant.settleTo 3).bus 3).link = none ∧
        ((demo.inInstant.settleTo 3).bus 3).state = .disabling) ∧
      (let u := ((demo.setBus 63 { Bus.initial with state := .enabling, link := some .l1 }).inInstant.settleTo 63)
       u.work.nextBus = 63 ∧ (u.bus 63).link = some .l1 ∧ u.houseTime.toNat % u.framing.get .l1 = 0) := by
  try dsimp only
  repeat' apply And.intro
  all_goals decide +kernel

theorem witness_FeedEventsRunTheStep :
    ((demo.inInstant.feedsTo 1).work.nextFeed = 1 ∧ ((demo.inInstant.feedsTo 1).feed 1).state ≠ .running ∧
        (((demo.inInstant.feedsTo 1).startEval 1).feed 1).state = .running) ∧
      (let u := ({ demo with houseTime := 4864 } : State).inInstant.feedsTo 2
       u.work.nextFeed = 2 ∧ ((u.startEval 2).feed 2).state = .running ∧ u.houseTime.toNat % 256 = 0) ∧
      ((demo.inInstant.feedsTo 5).work.nextFeed = 5 ∧ ((demo.inInstant.feedsTo 5).feed 5).state = .draining ∧
        ((demo.inInstant.feedsTo 5).feed 5).fill < ((demo.inInstant.feedsTo 5).feed 5).carry) ∧
      (let u := (demo.setFeed 127 (feedIn .starved 9 16)).inInstant.feedsTo 127
       u.work.nextFeed = 127 ∧ (u.feed 127).state ≠ .running ∧ ((u.startEval 127).feed 127).state = .running) := by
  try dsimp only
  repeat' apply And.intro
  all_goals decide +kernel

/-- Fills at the target and one below it, and start times before, at and after house time. -/
theorem witness_FeedStepsInOrder :
    (demo.feed 0).state = .closed ∧ (demo.feed 4).state = .draining ∧ (demo.feed 2).state = .running ∧
      ((demo.feed 6).state = .priming ∧ (demo.feed 6).fill < (demo.feed 6).target) ∧
      ((feedIn .starved 2 15).fill < (feedIn .starved 2 15).target) ∧
      ((feedIn .starved 2 16).target ≤ (feedIn .starved 2 16).fill) ∧
      ((demo.feed 1).state = .priming ∧ (demo.feed 1).start = none ∧ (demo.feed 1).target ≤ (demo.feed 1).fill) ∧
      (demo.houseTime < 4801 ∧ 4800 = demo.houseTime ∧ (4799 : Time) < demo.houseTime) := by
  try dsimp only
  repeat' apply And.intro
  all_goals decide +kernel

/-- A carry the buffer can supply, and one it cannot, in RUNNING and in DRAINING. -/
theorem witness_ConversionConsumesAndFilters :
    (((demo.feed 2).position : Int) + (demo.feed 2).step).toNat / 16777216 ≤ (demo.feed 2).fill ∧
      (let x := feedIn .running 1 0
       x.state = .running ∧ x.fill < (((x.position : Int) + x.step) / 16777216).toNat) ∧
      ((demo.feed 5).state = .draining ∧
        (demo.feed 5).fill < ((((demo.feed 5).position : Int) + (demo.feed 5).step) / 16777216).toNat) := by
  try dsimp only
  repeat' apply And.intro
  all_goals decide +kernel

theorem witness_RampsEndAtTheTarget :
    let u := demo.inInstant.routesTo 3
    u.work.nextRoute = 3 ∧ 3 < u.tableSize .route ∧ u.routeAt 3 = some route1 ∧ route1.remaining = 1 := by
  try dsimp only
  repeat' apply And.intro
  all_goals decide +kernel

/-- A slot that is EMPTY, and routes with 0, 1 and 2 instants of their ramp remaining. -/
theorem witness_ramps_advance :
    let s : State := { demo with instant := some InstantWork.initial }
    (s.instant = some InstantWork.initial ∧ s.routeAt 127 = none) ∧ (s.routeAt 0 = some route0 ∧ route0.remaining = 0) ∧
      (s.routeAt 3 = some route1 ∧ route1.remaining = 1) ∧
      (let r : Route := { route0 with remaining := 2, step := -1073741824 }
       (s.setEntry .route 0 (.route r)).routeAt 0 = some r ∧ 2 ≤ r.remaining ∧ ((0 : Nat) : Int) = r.current + r.step) := by
  try dsimp only
  repeat' apply And.intro
  all_goals decide +kernel

theorem witness_BusesMix :
    let s : State := { demo with instant := some InstantWork.initial }
    s.instant = some InstantWork.initial ∧ (s.bus 0).state = .disabled ∧ (s.bus 1).state = .enabling ∧
      ((s.bus 3).state = .disabling ∧ (s.bus 3).delay = 0) ∧ ((s.bus 2).state = .enabled ∧ (s.bus 2).delay ≠ 0) := by
  try dsimp only
  repeat' apply And.intro
  all_goals decide +kernel

/-- The demonstration device at the last instant of a frame on link 0, with bus 2 on that link; the link is UP or DOWN. -/
def framed (up : Bool) : State :=
  let s := (demo.setBus 2 { demo.bus 2 with link := some .l0 }).setArb .l0
    { Arbiter.initial with assembly := some { t0 := 4800, buses := [2], rows := List.replicate 7 [0] } }
  { s with houseTime := 4807, links := s.links.set .l0 { LinkState.initial with up := up } }

theorem witness_BusFramesComplete :
    (framed true).engine = .run ∧
      (let u := (framed true).inInstant.handTo Link.l0.num
       u.work.nextLink = Link.l0.num ∧
         u.begunAssembly .l0 = some { t0 := 4800, buses := [2], rows := List.replicate 7 [0] } ∧
         (List.replicate 7 [(0 : Sample)]).length + 1 = u.framing.get .l0 ∧ u.linkUp .l0 = true) ∧
      ((framed false).inInstant.handTo Link.l0.num).linkUp .l0 = false := by
  try dsimp only
  repeat' apply And.intro
  all_goals decide +kernel

/-- An instant that begins an assembly, one with none, and an assembly of 6 and of 7 instants. -/
theorem witness_assemblies_grow :
    (demo.houseTime.toNat % demo.framing.get .l0 = 0 ∧ 1 < demo.framing.get .l0) ∧
      (({ demo with houseTime := 4801 } : State).houseTime.toNat % demo.framing.get .l0 ≠ 0 ∧ (demo.arb .l0).assembly = none) ∧
      (let s := { framed true with houseTime := 4801 }
       s.houseTime.toNat % s.framing.get .l0 ≠ 0 ∧ (s.arb .l0).assembly ≠ none ∧
         (List.replicate 6 [(0 : Sample)]).length + 1 ≠ s.framing.get .l0 ∧
         (List.replicate 7 ([] : List Sample)).length + 1 = s.framing.get .l0) := by
  try dsimp only
  repeat' apply And.intro
  all_goals decide +kernel

/-- The demonstration device with arbiter `a` on link 0 and link 1 sending a frame. -/
def sending (a : Arbiter) : State :=
  (demo.setArb .l0 a).setArb .l1 { Arbiter.initial with sending := some (.pass (frame0 1 1 1)) }

theorem witness_EgressChoosesInOrder :
    (sending Arbiter.initial).linkUp .l0 = true ∧
      (((sending Arbiter.initial).setArb .l0 { (sending Arbiter.initial).arb .l0 with sending := none }).arb .l1).sending ≠ none ∧
      ((sending { Arbiter.initial with due := some { link := .l0, sequence := 0, t0 := 0, k := 4, buses := [1], rows := [] } }).arb
        .l0).due ≠ none ∧
      ((sending { Arbiter.initial with flowQueue := fullFlow }).arb .l0).due = none ∧
      (let s : State := { sending { Arbiter.initial with reportCredit := 1 } with reports := [startedReport 0] }
       s.reportLink = .l0 ∧ 1 ≤ (s.arb .l0).reportCredit ∧ s.reports ≠ [] ∧ (s.arb .l0).due = none ∧
         (s.arb .l0).flowQueue = []) ∧
      (let s := sending { Arbiter.initial with passCredit := 1, passQueue := [{ window := 0, frame := frame0 1 1 1 }] }
       (s.arb .l0).reportCredit = 0 ∧ 1 ≤ (s.arb .l0).passCredit ∧ (s.arb .l0).passQueue ≠ []) ∧
      ((sending Arbiter.initial).reports = [] ∧ ((sending Arbiter.initial).arb .l0).passQueue = []) := by
  try dsimp only
  repeat' apply And.intro
  all_goals decide +kernel

/-- A DOWN link, one that is sending, and both links idle. -/
theorem witness_links_that_choose_none :
    ({ demo with links := PerLink.both LinkState.initial } : State).linkUp .l0 = false ∧
      ((sending Arbiter.initial).arb .l1).sending ≠ none ∧
      (demo.linkUp .l0 = true ∧ (demo.arb .l0).sending = none ∧ demo.linkUp .l1 = true ∧ (demo.arb .l1).sending = none) := by
  try dsimp only
  repeat' apply And.intro
  all_goals decide +kernel

/-- A number above every listed one holds what an unlisted number holds. -/
theorem cellGet_above {α : Type} (d : α) (n : Nat) : ∀ m : List (Nat × α), (∀ q ∈ m, q.1 < n) → cellGet d m n = d
  | [], _ => rfl
  | (k, v) :: m, h => by
    have hk : k < n := h (k, v) (List.mem_cons_self ..)
    rw [cellGet, if_neg (Nat.ne_of_lt hk), cellGet_above d n m fun q hq => h q (List.mem_cons_of_mem _ hq)]

/-- What every listed record and the record of an unlisted number have, every number has. -/
theorem forall_cells {α : Type} (d : α) (m : List (Nat × α)) (k : Nat) (P : Nat → α → Prop) (hm : ∀ q ∈ m, q.1 < k)
    (hk : ∀ n, n < k → P n (cellGet d m n)) (hd : ∀ n, k ≤ n → P n d) (n : Nat) : P n (cellGet d m n) := by
  by_cases h : n < k
  · exact hk n h
  · rw [cellGet_above d n m fun q hq => (hm q hq).trans_le (Nat.not_lt.1 h)]
    exact hd n (Nat.not_lt.1 h)

theorem demo_FeedsBounded : demo.FeedsBounded :=
  ⟨forall_cells Feed.initial demo.feeds 7 (fun _ x => x.BufferBounded) (by decide +kernel) (by decide +kernel)
      fun _ _ => by decide +kernel,
    forall_cells Feed.initial demo.feeds 7 (fun n x => 128 ≤ n → x.state = .closed) (by decide +kernel)
      (fun n h g => absurd (h.trans_le (show 7 ≤ 128 by decide)) (Nat.not_lt.2 g)) fun _ _ _ => rfl⟩

theorem demo_StepBounded : ∀ n, (demo.feed n).StepBounded :=
  forall_cells Feed.initial demo.feeds 7 (fun _ x => x.StepBounded) (by decide +kernel) (by decide +kernel)
    fun _ _ => by decide +kernel

/-- Every page listed as lent is in its holder's list, and no other is. -/
theorem demo_owners : ∀ p, p < 8 → demo.owner p ≠ .free ∧ (∀ n, demo.owner p = .feed n → n < 7) ∧
    ∀ b, demo.owner p = .bus b → b < 3 := by
  intro p hp
  have h : ∀ p, p < 8 → (match demo.owner p with | .free => false | .feed n => decide (n < 7) | .bus b => decide (b < 3)) = true := by
    decide +kernel
  have := h p hp
  refine ⟨fun e => ?_, fun n e => ?_, fun b e => ?_⟩
  · rw [e] at this; exact absurd this (by decide)
  · rw [e] at this; exact of_decide_eq_true this
  · rw [e] at this; exact of_decide_eq_true this

theorem demo_owner_above : ∀ p, 8 ≤ p → demo.owner p = .free := fun p h =>
  cellGet_above _ p _ fun q hq => (show ∀ q ∈ demo.owners, q.1 < 8 by decide +kernel) q hq |>.trans_le h

theorem demo_PoolAgrees : demo.PoolAgrees := by
  have holders : ∀ p, p < 8 → (∀ n, n < 7 → (demo.owner p = .feed n ↔ p ∈ (demo.feed n).pages)) ∧
      ∀ b, b < 3 → (demo.owner p = .bus b ↔ p ∈ (demo.bus b).pages) := by decide +kernel
  have below : (∀ n, n < 7 → ∀ p ∈ (demo.feed n).pages, p < 8) ∧ ∀ b, b < 4 → ∀ p ∈ (demo.bus b).pages, p < 8 := by decide +kernel
  have feedAbove : ∀ n, 7 ≤ n → (demo.feed n).pages = [] := fun n h => by
    rw [State.feed, cellGet_above Feed.initial n demo.feeds fun q hq =>
      ((show ∀ q ∈ demo.feeds, q.1 < 7 by decide +kernel) q hq).trans_le h]
    rfl
  have busAbove : ∀ b, 3 ≤ b → (demo.bus b).pages = [] := fun b h => by
    rcases Nat.eq_or_lt_of_le h with e | h
    · rw [← e]; decide +kernel
    · rw [State.bus, cellGet_above Bus.initial b demo.buses fun q hq =>
        ((show ∀ q ∈ demo.buses, q.1 < 4 by decide +kernel) q hq).trans_le h]
      rfl
  refine ⟨by decide +kernel, fun p => ?_, by decide +kernel, fun n => ⟨?_, fun p => ?_⟩, fun b => ⟨?_, fun p => ?_⟩, fun b h =>
    busAbove b ((show 3 ≤ 64 by decide).trans h), by decide +kernel⟩
  · by_cases hp : p < 8
    · refine ⟨fun e => absurd e (demo_owners p hp).1, fun e => ?_⟩
      rcases e with e | e
      · exact absurd hp (Nat.not_lt.2 ((show ∀ p ∈ demo.freeList, 8 ≤ p by decide +kernel) p e))
      · exact absurd (hp.trans_le (show 8 ≤ 512 by decide)) (Nat.not_lt.2 e)
    · refine ⟨fun _ => ?_, fun _ => demo_owner_above p (Nat.not_lt.1 hp)⟩
      by_cases h : 512 ≤ p
      · exact Or.inr h
      · exact Or.inl (List.mem_range'.2 ⟨p - 8, by omega, by omega⟩)
  · by_cases hn : n < 7
    · exact (show ∀ n, n < 7 → (demo.feed n).pages.Nodup by decide +kernel) n hn
    · rw [feedAbove n (Nat.not_lt.1 hn)]; exact List.nodup_nil
  · by_cases hn : n < 7
    · by_cases hp : p < 8
      · exact (holders p hp).1 n hn
      · rw [demo_owner_above p (Nat.not_lt.1 hp)]
        exact ⟨fun e => (nomatch e), fun e => absurd (below.1 n hn p e) hp⟩
    · rw [feedAbove n (Nat.not_lt.1 hn)]
      refine ⟨fun e => absurd ?_ hn, fun e => (nomatch e)⟩
      by_cases hp : p < 8
      · exact (demo_owners p hp).2.1 n e
      · rw [demo_owner_above p (Nat.not_lt.1 hp)] at e; exact nomatch e
  · by_cases hb : b < 3
    · exact (show ∀ b, b < 3 → (demo.bus b).pages.Nodup by decide +kernel) b hb
    · rw [busAbove b (Nat.not_lt.1 hb)]; exact List.nodup_nil
  · by_cases hb : b < 3
    · by_cases hp : p < 8
      · exact (holders p hp).2 b hb
      · rw [demo_owner_above p (Nat.not_lt.1 hp)]
        exact ⟨fun e => (nomatch e), fun e => absurd (below.2 b (hb.trans (by decide)) p e) hp⟩
    · rw [busAbove b (Nat.not_lt.1 hb)]
      refine ⟨fun e => absurd ?_ hb, fun e => (nomatch e)⟩
      by_cases hp : p < 8
      · exact (demo_owners p hp).2.2 b e
      · rw [demo_owner_above p (Nat.not_lt.1 hp)] at e; exact nomatch e

theorem demo_KernelsCounted : demo.KernelsCounted := by
  constructor
  · intro k
    refine forall_cells KernelSet.initial demo.kernels 4 (fun k x => x.inUse = (List.range Config.feeds).countP fun n =>
      decide ((demo.feed n).state ≠ .closed ∧ (demo.feed n).kernel = k)) (by decide +kernel) (by decide +kernel) (fun k h => ?_) k
    refine (List.countP_eq_zero.2 fun n hn => ?_).symm
    have hz : ∀ n, n < 128 → (demo.feed n).kernel = 0 := by decide +kernel
    rw [hz n (List.mem_range.1 hn)]
    exact fun e => absurd (of_decide_eq_true e).2 (by omega)
  · exact forall_cells Feed.initial demo.feeds 7 (fun _ x => x.state ≠ .closed → (demo.kernel x.kernel).state = .ready)
      (by decide +kernel) (by decide +kernel) fun _ _ h => absurd rfl h

theorem demo_TablesWhole : demo.TablesWhole := by
  have heads : ∀ i, i < demo.tableSize .admission →
      (match demo.entry .admission i with
        | .wideHead _ => decide (i % 2 = 0 ∧ demo.entry .admission (i + 1) = .continuation wide0)
        | .continuation _ => decide (i % 2 = 1 ∧ demo.entry .admission (i - 1) ≠ .empty ∧
            (demo.entry .admission (i - 1) = .wideHead rule0 ∨ demo.entry .admission (i - 1) = .wideHead rule1))
        | .route _ => false
        | .empty | .narrow _ => true) = true := by decide +kernel
  have routes : ∀ i, i < demo.tableSize .route →
      (match demo.entry .route i with
        | .route r => decide (i = 0 ∧ r = route0 ∨ i = 3 ∧ r = route1)
        | .empty => true
        | .narrow _ | .wideHead _ | .continuation _ => false) = true := by decide +kernel
  refine ⟨⟨by decide +kernel, fun k => ?_⟩, fun i hi => ⟨fun r e => ?_, fun w e => ?_, fun r e => ?_⟩, ⟨fun i hi => ?_, ?_⟩,
    fun b e => nomatch e⟩
  · refine forall_cells Slot.empty demo.slots 644
      (fun k x => k / Config.bankSlots ∉ demo.admissionBanks ++ demo.routeBanks → x = .empty) (by decide +kernel) ?_
      (fun _ _ _ => rfl) k
    decide +kernel
  · have h := heads i hi
    rw [e] at h
    have h := of_decide_eq_true h
    exact ⟨h.1, wide0, h.2⟩
  · have h := heads i hi
    rw [e] at h
    have h := of_decide_eq_true h
    exact ⟨h.1, h.2.2.elim (fun h => ⟨_, h⟩) fun h => ⟨_, h⟩⟩
  · have h := heads i hi
    rw [e] at h
    exact nomatch h
  · have h := routes i hi
    cases e : demo.entry .route i with
    | empty => exact Or.inl rfl
    | route r => exact Or.inr ⟨r, rfl⟩
    | narrow r => rw [e] at h; exact nomatch h
    | wideHead r => rw [e] at h; exact nomatch h
    | continuation w => rw [e] at h; exact nomatch h
  · intro i j r q hi hj er eq hf _
    have fields : ∀ i, i < demo.tableSize .route → (demo.routeAt i).all (fun r => decide (r.feed = 2 ∧ i = 0 ∨ r.feed = 3 ∧ i = 3)) = true := by
      decide +kernel
    have h1 := fields i hi
    have h2 := fields j hj
    rw [er] at h1
    rw [eq] at h2
    have h1 := of_decide_eq_true h1
    have h2 := of_decide_eq_true h2
    omega

/-- The demonstration device meets the premise of every invariant statement, and its steps answer next. -/
theorem witness_StepsKeepInvariants :
    (demo.Canonical ∧ demo.ReportsBounded ∧ (∀ l, demo.LinkBounded l) ∧ demo.CuesOrdered ∧ (∀ n, (demo.feed n).StepBounded) ∧
      demo.FeedsBounded ∧ demo.PoolAgrees ∧ demo.KernelsCounted ∧ demo.TablesWhole) ∧
      ∃ t, step demo = .next t := by
  refine ⟨⟨?_, by decide +kernel, fun l => by cases l <;> decide +kernel, ?_, demo_StepBounded, demo_FeedsBounded, demo_PoolAgrees,
    demo_KernelsCounted, demo_TablesWhole⟩, ⟨_, rfl⟩⟩
  · repeat' apply And.intro
    all_goals decide +kernel
  · exact ⟨by decide +kernel, List.Pairwise.nil, fun _ => rfl⟩

end

end Sys2Proof.Tests
end

/-! PROOFS. The mix engine and house time (file 01), and what STARTING ends in (R2): the owner's rule of each command in each of
its cases, the laws of the exchange of delay pages and of STOP ENGINE store by store, and the statements settled with them. -/

namespace Sys2Proof.Machine

/-! ### Between instants (R12) -/

section
variable {s : State} {h : Hdr}

/-- A command that reaches its owner, with what the owner makes of the device. -/
theorem exec_of_own {i : Instr} {t : State} (r : s.Ready i h) (e : (s.handed h).own i (askOf h i (subjectOf i)) = t) :
    exec i s = .next t.settle := by
  rw [exec_of_ready r, e]

/-- Taking a command from its FIFO leaves the engine in its state. -/
theorem handed_engine {e : Engine} (he : s.engine = e) : (s.handed h).engine = e := he

end

/-! ### The end of STARTING (R1, R2, R28) -/

theorem endStarting_of_starting {s : State} (he : s.engine = .starting) (hp : s.rstnLow = false) :
    s.endStarting = { State.reset with cause := s.cause, reports := [startedReport s.cause], pending := s.pending } :=
  if_pos ⟨he, hp⟩

/-- A store listed from a function of its numbers holds the function's value at every number it lists. -/
theorem cellGet_map_pair {α : Type} (d : α) (f : Nat → α) (i : Nat) :
    ∀ is : List Nat, cellGet d (is.map fun p => (p, f p)) i = if i ∈ is then f i else d
  | [] => by simp
  | p :: is => by
    have ih := cellGet_map_pair d f i is
    by_cases h : p = i
    · subst h; simp [cellGet]
    · simp [cellGet, h, Ne.symm h, ih]

/-- Kernel set 0 holds the linear kernel, row by row (R28). -/
theorem row_linear {p : Nat} (hp : p ≤ 64) : KernelSet.linear.row p = linearRow p :=
  (cellGet_map_pair _ linearRow p (List.range 65)).trans (if_pos (List.mem_range.2 (by omega)))

theorem kernel_reset_zero : State.reset.kernel 0 = KernelSet.linear := rfl

theorem kernel_reset_above {k : Nat} (hk : 1 ≤ k) : State.reset.kernel k = KernelSet.initial :=
  if_neg (show ¬ 0 = k by omega)

theorem freeList_reset : State.reset.freeList = List.range 512 := by simp only [State.reset]

theorem inUse_kernel_reset (k : Nat) : (State.reset.kernel k).inUse = 0 := by
  rcases Nat.eq_zero_or_pos k with rfl | hk
  · rfl
  · rw [kernel_reset_above hk]; rfl

/-- Settles O6: one conjunct for each line of R2's table; the stores of State.reset list nothing but kernel set 0, so only the
kernel sets need an argument. -/
theorem resetHoldsTheListedValues : Obligations.ResetHoldsTheListedValues := by
  refine ⟨fun s he hp => ⟨{ s with reports := [startedReport s.cause] }, ?started, rfl⟩,
    rfl, rfl, rfl, fun l => ?framing, fun _ => rfl, rfl, rfl, fun _ => rfl, fun _ => ⟨rfl, rfl, rfl, rfl⟩,
    rfl, fun p hp => ?row, fun k hk => ?empty, inUse_kernel_reset, freeList_reset, fun _ => rfl, fun _ => rfl, rfl, rfl,
    fun _ => ⟨rfl, rfl, rfl⟩, fun l => ?defaults, fun l => ?staging, rfl, fun l => ?links, fun l => ?fifos, rfl, rfl, rfl, rfl,
    fun l => ?arbiters⟩
  case started => exact congrArg Host.Outcome.next (endStarting_of_starting he hp)
  case row => rw [kernel_reset_zero, row_linear hp]; rfl
  case empty => rw [kernel_reset_above hk]; rfl
  case defaults => cases l <;> exact ⟨rfl, rfl⟩
  case links => cases l <;> exact ⟨rfl, rfl, rfl⟩
  all_goals cases l <;> rfl

/-! ### Settings of CONFIG (R9 to R11) and READ TIME (R166) -/

section
variable {s : State} {h : Hdr} (a : Ask)

/-- In RUN the mix engine refuses every setting of CONFIG. -/
theorem own_setting_run {i : Instr}
    (hi : (∃ h r, i = .setHouseRate h r) ∨ (∃ h t, i = .setHouseTime h t) ∨ (∃ h l k, i = .setLinkFraming h l k))
    (he : s.engine = .run) : s.own i a = s.finishInstant.refuse a .wrongState [] := by
  have hf : s.finishInstant.engine = .run := (finishInstant_engine s).trans he
  rcases hi with ⟨_, _, rfl⟩ | ⟨_, _, rfl⟩ | ⟨_, _, _, rfl⟩ <;> exact if_pos hf

theorem not_run_of_config (he : s.engine = .config) : s.finishInstant.engine ≠ .run := by simp [he]

theorem houseRate?_hz (r : HouseRate) : houseRate? r.hz = some r := by cases r <;> rfl

theorem houseRate?_none {rate : Nat} (h48 : rate ≠ 48000) (h96 : rate ≠ 96000) : houseRate? rate = none := by
  rw [houseRate?, if_neg h48, if_neg h96]

theorem own_setHouseRate_config (he : s.engine = .config) (r : HouseRate) :
    s.own (.setHouseRate h r.hz) a = { s.finishInstant with houseRate := r }.reply a .ok [wordNat r.hz] := by
  show s.ownSetHouseRate a r.hz = _
  rw [State.ownSetHouseRate, if_neg (not_run_of_config he), houseRate?_hz]

theorem own_setHouseRate_bad (he : s.engine = .config) {rate : Nat} (hr : houseRate? rate = none) :
    s.own (.setHouseRate h rate) a = s.finishInstant.refuse a .badOperand [] := by
  show s.ownSetHouseRate a rate = _
  rw [State.ownSetHouseRate, if_neg (not_run_of_config he), hr]

theorem own_setHouseTime_config (he : s.engine = .config) (time : Nat) :
    s.own (.setHouseTime h time) a =
      { s.finishInstant with houseTime := BitVec.ofNat 48 time }.reply a .ok (words48 (BitVec.ofNat 48 time)) :=
  if_neg (not_run_of_config he)

theorem Link.ofNat?_num (l : Link) : Link.ofNat? l.num = some l := by cases l <;> rfl

theorem Link.ofNat?_none {n : Nat} (hn : 1 < n) : Link.ofNat? n = none := by
  obtain ⟨m, rfl⟩ := Nat.exists_eq_add_of_le' hn; rfl

theorem Link.exists_num {n : Nat} (hn : n ≤ 1) : ∃ l : Link, n = l.num := by
  rcases Nat.le_one_iff_eq_zero_or_eq_one.1 hn with rfl | rfl
  exacts [⟨.l0, rfl⟩, ⟨.l1, rfl⟩]

theorem own_setLinkFraming_link (he : s.engine = .config) (l : Link) (k : Nat) :
    s.own (.setLinkFraming h l.num k) a =
      if k = 4 ∨ k = 8 ∨ k = 16 then
        { s.finishInstant with framing := s.finishInstant.framing.set l k }.reply a .ok []
      else s.finishInstant.refuse a .badOperand [] := by
  show s.ownSetLinkFraming a l.num k = _
  rw [State.ownSetLinkFraming, if_neg (not_run_of_config he), Link.ofNat?_num]

theorem own_setLinkFraming_badLink (he : s.engine = .config) {link : Nat} (hl : 1 < link) (k : Nat) :
    s.own (.setLinkFraming h link k) a = s.finishInstant.refuse a .badIndex [] := by
  show s.ownSetLinkFraming a link k = _
  rw [State.ownSetLinkFraming, if_neg (not_run_of_config he), Link.ofNat?_none hl]

end

/-- Settles O9: each clause is the owner's rule in its case, brought to the row by `exec_of_own`. -/
theorem configSettingsAreTaken : Obligations.ConfigSettingsAreTaken := by
  intro h s u
  refine ⟨fun rate r hr rd he => ?rate, fun rate h48 h96 rd he => ?badRate, fun time rd he => ?time,
    fun l k hk rd he => ?framing, fun link k hl rd he => ?badLink, fun link k hl h4 h8 h16 rd he => ?badK,
    fun i hi rd he => ?run, fun rd => ?read⟩
  case rate =>
    have hz : rate = r.hz := by rcases hr with ⟨rfl, rfl⟩ | ⟨rfl, rfl⟩ <;> rfl
    subst hz
    exact exec_of_own rd (own_setHouseRate_config _ (handed_engine he) r)
  case badRate => exact exec_of_own rd (own_setHouseRate_bad _ (handed_engine he) (houseRate?_none h48 h96))
  case time => exact exec_of_own rd (own_setHouseTime_config _ (handed_engine he) time)
  case framing => exact exec_of_own rd ((own_setLinkFraming_link _ (handed_engine he) l k).trans (if_pos hk))
  case badLink => exact exec_of_own rd (own_setLinkFraming_badLink _ (handed_engine he) hl k)
  case badK =>
    obtain ⟨l, rfl⟩ := Link.exists_num hl
    exact exec_of_own rd ((own_setLinkFraming_link _ (handed_engine he) l k).trans (if_neg (by simp [h4, h8, h16])))
  case run =>
    refine exec_of_own rd (own_setting_run _ ?_ (handed_engine he))
    exact hi.imp (fun ⟨r, e⟩ => ⟨h, r, e⟩) (Or.imp (fun ⟨t, e⟩ => ⟨h, t, e⟩) fun ⟨l, k, e⟩ => ⟨h, l, k, e⟩)
  case read => exact exec_of_own rd rfl

/-! ### SET BUS DELAY (R21, R78, R82) -/

section
variable (s : State) (b d : Nat)

/-- The free list from whose front the new delay pages come: the bus's old pages have gone to its back. -/
def State.delayPool (s : State) (b : Nat) : List Nat := s.freeList ++ (s.bus b).pages

theorem returnPages_freeList (ps : List Nat) : (s.returnPages ps).freeList = s.freeList ++ ps := by rw [returnPages_eq]

theorem bus_returnPages (ps : List Nat) : (s.returnPages ps).bus = s.bus := by rw [returnPages_eq]; rfl

theorem word_returnPages (ps : List Nat) : (s.returnPages ps).word = s.word := by rw [returnPages_eq]; rfl

theorem bus_takePages (o : Owner) (n : Nat) : (s.takePages o n).bus = s.bus := by rw [takePages_eq]; rfl

theorem word_takePages (o : Owner) (n : Nat) : (s.takePages o n).word = s.word := by rw [takePages_eq]; rfl

theorem bus_clearLine (c : Nat) : (s.clearLine b).bus c = if b = c then { s.bus b with index := 0 } else s.bus c :=
  bus_setBus _ _ _ _

theorem word_clearLine (x : Nat) : (s.clearLine b).word x = if inLine (s.bus b).pages (s.bus b).delay x then 0 else s.word x :=
  word_clearWords _ _ _ _

theorem exchangeDelay_eq :
    s.exchangeDelay b d =
      { s with
        buses := (s.exchangeDelay b d).buses, freeList := (s.delayPool b).drop (pagesFor d),
        owners := (s.exchangeDelay b d).owners, memory := (s.exchangeDelay b d).memory } := by
  unfold State.exchangeDelay State.clearLine
  dsimp only
  rw [takePages_eq, returnPages_eq]; rfl

theorem bus_exchangeDelay (c : Nat) :
    (s.exchangeDelay b d).bus c =
      if b = c then { s.bus b with delay := d, pages := (s.delayPool b).take (pagesFor d), index := 0 } else s.bus c := by
  unfold State.exchangeDelay
  dsimp only
  rw [bus_clearLine, bus_setBus_same, bus_setBus, bus_takePages, bus_returnPages, returnPages_freeList]
  split <;> rfl

theorem owner_exchangeDelay (p : Nat) :
    (s.exchangeDelay b d).owner p =
      if p ∈ (s.delayPool b).take (pagesFor d) then .bus b else if p ∈ (s.bus b).pages then .free else s.owner p := by
  show ((s.returnPages (s.bus b).pages).takePages (.bus b) (pagesFor d)).owner p = _
  rw [owner_takePages, returnPages_freeList, owner_returnPages]; rfl

theorem word_exchangeDelay (x : Nat) :
    (s.exchangeDelay b d).word x = if inLine ((s.delayPool b).take (pagesFor d)) d x then 0 else s.word x := by
  unfold State.exchangeDelay
  dsimp only
  rw [word_clearLine, bus_setBus_same, word_setBus, word_takePages, word_returnPages, returnPages_freeList]
  rfl

/-- Where the pages cover the delay, the line is its positions 0 to `d` − 1. -/
theorem inLine_iff_of_covers {pages : List Nat} {d x : Nat} (hc : pagesFor d ≤ pages.length) :
    inLine pages d x = true ↔ ∃ q, q < d ∧ x = pageAddress pages q := by
  rw [inLine_iff]
  refine exists_congr fun q => and_congr_right fun hq => and_iff_right ?_
  have : (d + 255) / 256 ≤ pages.length := hc
  omega

end

section
variable {s : State} (a : Ask) {b : Nat}

theorem ownSetBusDelay_badIndex (hb : 63 < b) (delay : Nat) :
    s.ownSetBusDelay a b delay = s.finishInstant.refuse a .badIndex [] := if_pos hb

/-- On a bus that exists, with the checks of R21 in their order. -/
theorem ownSetBusDelay_bus (hb : b ≤ 63) (delay : Nat) :
    let u := s.finishInstant
    let d := min delay 4800
    s.ownSetBusDelay a b delay =
      if (u.bus b).state ≠ .disabled then u.refuse a .busActive []
      else if (u.delayPool b).length < pagesFor d then u.refuse a .noPages []
      else (u.exchangeDelay b d).reply a .ok [wordNat d, wordNat (pagesFor d)] := by
  intro u d
  rw [State.delayPool, List.length_append]
  exact if_neg (Nat.not_lt.2 hb)

end

/-- Settles O12: the checks in the owner's order, and then the exchange store by store. -/
theorem busDelayExchangesPages : Obligations.BusDelayExchangesPages := by
  intro h b delay s rd u a d n list
  have own (hb : b ≤ 63) := ownSetBusDelay_bus (s := s.handed h) a hb delay
  refine ⟨fun hb => ?badIndex, fun hb hd => ?busActive, fun hb hd hn => ?noPages, fun hb hd hn => ?exchange⟩
  case badIndex => exact exec_of_own rd (ownSetBusDelay_badIndex a hb delay)
  case busActive => exact exec_of_own rd ((own hb).trans (if_pos hd))
  case noPages => exact exec_of_own rd ((own hb).trans ((if_neg (not_not.2 hd)).trans (if_pos hn)))
  case exchange =>
    have covers : pagesFor d ≤ (list.take n).length := by rw [List.length_take]; exact Nat.le_min.2 ⟨Nat.le_refl n, hn⟩
    have line (x : Nat) := inLine_iff_of_covers (x := x) covers
    refine ⟨u.exchangeDelay b d, ?row, exchangeDelay_eq u b d, ?bus, fun c hc => ?otherBus, owner_exchangeDelay u b d,
      fun q hq => ?inside, fun w hw => ?outside⟩
    case row => exact exec_of_own rd ((own hb).trans ((if_neg (not_not.2 hd)).trans (if_neg (Nat.not_lt.2 hn))))
    case bus => exact (bus_exchangeDelay u b d b).trans (if_pos rfl)
    case otherBus => exact (bus_exchangeDelay u b d c).trans (if_neg (Ne.symm hc))
    case inside => exact (word_exchangeDelay u b d _).trans (if_pos ((line _).2 ⟨q, hq, rfl⟩))
    case outside =>
      refine (word_exchangeDelay u b d w).trans (if_neg fun hl => ?_)
      obtain ⟨q, hq, e⟩ := (line w).1 hl
      exact hw q hq e

/-! ### STOP ENGINE (R6, R7) -/

section
variable (s : State)

/-- The pages that STOP ENGINE returns, in the order in which the feeds close. -/
def State.openPages (s : State) : List Nat :=
  (List.range 128).flatMap fun f => if (s.feed f).state = .closed then [] else (s.feed f).pages

/-- The words of the delay lines of the 64 buses. -/
def State.lineWord (s : State) (x : Nat) : Prop :=
  ∃ b q, b < 64 ∧ q < (s.bus b).delay ∧ q / 256 < (s.bus b).pages.length ∧ x = pageAddress (s.bus b).pages q

theorem closeAllFeeds_eq :
    s.closeAllFeeds =
      { s with
        feeds := s.closeAllFeeds.feeds, freeList := s.freeList ++ s.openPages, owners := s.closeAllFeeds.owners,
        kernels := s.closeAllFeeds.kernels } := (closeFeeds_spec s 128).1

theorem snapRoutes_eq : s.snapRoutes = { s with slots := s.snapRoutes.slots } :=
  (snapRoutes_spec s _ (Nat.le_refl _)).1

theorem routeBanks_snapRoutes : s.snapRoutes.routeBanks = s.routeBanks := by rw [snapRoutes_eq]

theorem stopBuses_eq : s.stopBuses = { s with buses := s.stopBuses.buses, memory := s.stopBuses.memory } :=
  (stopBuses_spec s 64).1

/-- The three parts of STOP ENGINE put together: the feeds closed in `c`, the ramps snapped in `v` and the buses stopped in `w`
write stores of their own, so that each store of the outcome comes from one of them. -/
theorem inConfig_of_parts {s c v w : State} {free : List Nat}
    (hc : c = { s with feeds := c.feeds, freeList := free, owners := c.owners, kernels := c.kernels })
    (hv : v = { c.withoutCues with slots := v.slots }) (hw : w = { v with buses := w.buses, memory := w.memory }) :
    w.dropAssemblies.inConfig =
      { s with
        engine := .config, cues := [], feeds := c.feeds, freeList := free, owners := c.owners, kernels := c.kernels,
        buses := w.buses, memory := w.memory, slots := v.slots, arbiters := s.dropAssemblies.arbiters } :=
  calc w.dropAssemblies.inConfig
    _ = State.inConfig (State.dropAssemblies { v with buses := w.buses, memory := w.memory }) :=
      congrArg (fun t : State => t.dropAssemblies.inConfig) hw
    _ = State.inConfig (State.dropAssemblies
          { c.withoutCues with slots := v.slots, buses := w.buses, memory := w.memory }) :=
      congrArg (fun t : State => State.inConfig (State.dropAssemblies { t with buses := w.buses, memory := w.memory })) hv
    _ = _ :=
      congrArg (fun t : State => State.inConfig (State.dropAssemblies
        { t.withoutCues with slots := v.slots, buses := w.buses, memory := w.memory })) hc

/-- The device after STOP ENGINE, each store taken from the part that wrote it. -/
theorem stopEngine_stores :
    s.stopEngine =
      { s with
        engine := .config, cues := [], feeds := s.closeAllFeeds.feeds, freeList := s.freeList ++ s.openPages,
        owners := s.closeAllFeeds.owners, kernels := s.closeAllFeeds.kernels,
        buses := s.closeAllFeeds.withoutCues.snapRoutes.stopBuses.buses,
        memory := s.closeAllFeeds.withoutCues.snapRoutes.stopBuses.memory,
        slots := s.closeAllFeeds.withoutCues.snapRoutes.slots, arbiters := s.dropAssemblies.arbiters } :=
  inConfig_of_parts (closeAllFeeds_eq s) (snapRoutes_eq _) (stopBuses_eq _)

/-- The frame of STOP ENGINE: the fields it writes, and no others. -/
theorem stopEngine_frame :
    s.stopEngine = { s with
      engine := .config, cues := [], feeds := s.stopEngine.feeds, freeList := s.freeList ++ s.openPages,
      owners := s.stopEngine.owners, kernels := s.stopEngine.kernels, buses := s.stopEngine.buses,
      memory := s.stopEngine.memory, slots := s.stopEngine.slots, arbiters := s.stopEngine.arbiters } := by
  rw [stopEngine_stores]

theorem feed_stopEngine : s.stopEngine.feed = s.closeAllFeeds.feed := feed_congr (by rw [stopEngine_stores])
theorem owner_stopEngine : s.stopEngine.owner = s.closeAllFeeds.owner := owner_congr (by rw [stopEngine_stores])
theorem kernel_stopEngine : s.stopEngine.kernel = s.closeAllFeeds.kernel := kernel_congr (by rw [stopEngine_stores])

/-! A table is read off its bank list and the slots of the pool. -/

theorem slotKey_route_congr {s t : State} (h : s.routeBanks = t.routeBanks) : s.slotKey .route = t.slotKey .route := by
  unfold State.slotKey State.banksOf; rw [h]

theorem tableSize_route_congr {s t : State} (h : s.routeBanks = t.routeBanks) : s.tableSize .route = t.tableSize .route := by
  unfold State.tableSize State.banksOf; rw [h]

theorem routeAt_congr {s t : State} (hs : s.slots = t.slots) (hb : s.routeBanks = t.routeBanks) : s.routeAt = t.routeAt := by
  funext i
  unfold State.routeAt State.entry
  rw [slot_congr hs, slotKey_route_congr hb]

/-- The device when STOP ENGINE has closed its feeds: the tables, the buses and sample memory are as they were. -/
theorem slots_closeAllFeeds : s.closeAllFeeds.withoutCues.slots = s.slots := by
  unfold State.withoutCues; rw [closeAllFeeds_eq]

theorem routeBanks_closeAllFeeds : s.closeAllFeeds.withoutCues.routeBanks = s.routeBanks := by
  unfold State.withoutCues; rw [closeAllFeeds_eq]

theorem buses_snapRoutes_closeAllFeeds : s.closeAllFeeds.withoutCues.snapRoutes.buses = s.buses := by
  rw [snapRoutes_eq]; unfold State.withoutCues; rw [closeAllFeeds_eq]

theorem memory_snapRoutes_closeAllFeeds : s.closeAllFeeds.withoutCues.snapRoutes.memory = s.memory := by
  rw [snapRoutes_eq]; unfold State.withoutCues; rw [closeAllFeeds_eq]

theorem routeAt_stopEngine {i : Nat} {r : Route} (hi : i < s.tableSize .route) (hr : s.routeAt i = some r) :
    s.stopEngine.routeAt i = some r.snap := by
  have hs : s.stopEngine.slots = s.closeAllFeeds.withoutCues.snapRoutes.slots := by rw [stopEngine_stores]
  have hb : s.stopEngine.routeBanks = s.closeAllFeeds.withoutCues.snapRoutes.routeBanks := by
    rw [routeBanks_snapRoutes, routeBanks_closeAllFeeds, stopEngine_stores]
  rw [← tableSize_route_congr (routeBanks_closeAllFeeds s)] at hi
  rw [← routeAt_congr (slots_closeAllFeeds s) (routeBanks_closeAllFeeds s)] at hr
  rw [routeAt_congr hs hb]
  obtain ⟨-, snapped, -⟩ := snapRoutes_spec s.closeAllFeeds.withoutCues _ (Nat.le_refl _)
  exact snapped i r hi hr

/-- A slot that holds no route of the route table is left as it is. -/
theorem slot_stopEngine {k : Nat}
    (hk : ∀ i r, i < s.tableSize .route → s.slotKey .route i = k → s.slot k ≠ .route r) : s.stopEngine.slot k = s.slot k := by
  have hs : s.stopEngine.slots = s.closeAllFeeds.withoutCues.snapRoutes.slots := by rw [stopEngine_stores]
  rw [← tableSize_route_congr (routeBanks_closeAllFeeds s), ← slotKey_route_congr (routeBanks_closeAllFeeds s),
    ← slot_congr (slots_closeAllFeeds s)] at hk
  rw [slot_congr hs, ← slot_congr (slots_closeAllFeeds s)]
  obtain ⟨-, -, -, -, others⟩ := snapRoutes_spec s.closeAllFeeds.withoutCues _ (Nat.le_refl _)
  exact others k hk

theorem lineWord_congr {s t : State} (h : s.buses = t.buses) : s.lineWord = t.lineWord := by
  unfold State.lineWord; rw [bus_congr h]

/-- The buses stop from the records and the memory that STOP ENGINE was given, since no earlier part writes either. -/
theorem buses_stopEngine :
    (∀ b, b < 64 → s.stopEngine.bus b = { s.bus b with state := .disabled, index := 0 }) ∧
      (∀ b, 64 ≤ b → s.stopEngine.bus b = s.bus b) ∧
      (∀ a, s.lineWord a → s.stopEngine.word a = 0) ∧ (∀ a, ¬ s.lineWord a → s.stopEngine.word a = s.word a) := by
  have hb : s.stopEngine.buses = s.closeAllFeeds.withoutCues.snapRoutes.stopBuses.buses := by rw [stopEngine_stores]
  have hm : s.stopEngine.memory = s.closeAllFeeds.withoutCues.snapRoutes.stopBuses.memory := by rw [stopEngine_stores]
  rw [bus_congr hb, word_congr hm, ← lineWord_congr (buses_snapRoutes_closeAllFeeds s),
    ← bus_congr (buses_snapRoutes_closeAllFeeds s), ← word_congr (memory_snapRoutes_closeAllFeeds s)]
  exact (stopBuses_spec s.closeAllFeeds.withoutCues.snapRoutes 64).2

theorem arb_stopEngine (l : Link) : s.stopEngine.arb l = { s.arb l with assembly := none } := by
  have ha : s.stopEngine.arbiters = s.dropAssemblies.arbiters := by rw [stopEngine_stores]
  unfold State.arb
  rw [ha]
  cases l <;> rfl

theorem own_stopEngine_config {s : State} {h : Hdr} (a : Ask) (he : s.engine = .config) :
    s.own (.stopEngine h) a = s.finishInstant.refuse a .wrongState [] := if_neg (not_run_of_config he)

theorem own_stopEngine_run {s : State} {h : Hdr} (a : Ask) (he : s.engine = .run) :
    s.own (.stopEngine h) a =
      (s.finishInstant.stopEngine.reply a .ok (words48 s.finishInstant.houseTime)).plainEvent .engineState .device [0] := by
  refine (if_pos ((finishInstant_engine s).trans he)).trans ?_
  rw [State.engineEvent, reply_eq]
  rfl

end

/-- Settles O8: the device `t` is `State.stopEngine` of the device between instants, told store by store. -/
theorem stopEngineStops : Obligations.StopEngineStops := by
  intro h s rd u
  refine ⟨fun he => exec_of_own rd (own_stopEngine_config _ (handed_engine he)), ?_⟩
  intro he closes returned cleared
  obtain ⟨hbus, hbus', hline, hline'⟩ := buses_stopEngine u
  obtain ⟨-, hfeed, howner, hkernel⟩ := closeFeeds_spec u 128
  refine ⟨u.stopEngine, exec_of_own rd (own_stopEngine_run _ (handed_engine he)), stopEngine_frame u, fun f hf => ?_,
    fun f hf => ?_, fun p => ?_, fun k => ?_, hbus, hbus', hline, hline', fun i r => routeAt_stopEngine u,
    fun k => slot_stopEngine u, arb_stopEngine u⟩
  · rw [feed_stopEngine]; exact (hfeed f).trans (if_pos hf)
  · rw [feed_stopEngine]; exact (hfeed f).trans (if_neg hf)
  · rw [owner_stopEngine]; exact howner p
  · rw [kernel_stopEngine]; exact hkernel k

end Sys2Proof.Machine

/-! PROOFS. The feed unit's OPEN FEED and CLOSE FEED (file 03): the owner's rule of each command case by case, what an open and a
close leave in each store, and the statements settled with them. -/

namespace Sys2Proof.Machine

/-! ### OPEN FEED (R48, R49) -/

/-- R48's checks of the operands alone. -/
def openOperandsOk (rate pages auto ret : Nat) : Prop :=
  rate ≤ 3 ∧ (pages = 1 ∨ pages = 2 ∨ pages = 4 ∨ pages = 8) ∧ auto ≤ 1 ∧ ret ≤ 1

theorem onOff?_none {n : Nat} (hn : 1 < n) : onOff? n = none := by
  obtain ⟨m, rfl⟩ := Nat.exists_eq_add_of_le' hn; rfl

theorem onOff?_known {n : Nat} (hn : n ≤ 1) : ∃ b, onOff? n = some b := by
  rcases Nat.le_one_iff_eq_zero_or_eq_one.1 hn with rfl | rfl
  exacts [⟨false, rfl⟩, ⟨true, rfl⟩]

section
variable {s : State} (a : Ask) {f rate pages auto ret : Nat} (k target : Nat) (start : Option Nat)

theorem ownOpenFeed_config (he : s.engine = .config) :
    s.ownOpenFeed a f rate k pages target auto ret start = s.refuse a .wrongState [] := if_pos (by simp [he])

theorem ownOpenFeed_badIndex (he : s.engine = .run) (hf : 127 < f) :
    s.ownOpenFeed a f rate k pages target auto ret start = s.refuse a .badIndex [] := by
  rw [State.ownOpenFeed, if_neg (not_not.2 he), if_pos hf]

/-- The rate and the page count are looked at first, then the two enumerated operands; all four fail alike. -/
theorem ownOpenFeed_badOperand (he : s.engine = .run) (hf : f ≤ 127) (bad : ¬ openOperandsOk rate pages auto ret) :
    s.ownOpenFeed a f rate k pages target auto ret start = s.refuse a .badOperand [] := by
  rw [State.ownOpenFeed, if_neg (not_not.2 he), if_neg (Nat.not_lt.2 hf)]
  by_cases hrp : 3 < rate ∨ ¬ (pages = 1 ∨ pages = 2 ∨ pages = 4 ∨ pages = 8)
  · rw [if_pos hrp]
  · obtain ⟨hr, hp⟩ := not_or.1 hrp
    have enumerated : 1 < auto ∨ 1 < ret := by
      by_contra hn
      obtain ⟨ha, hl⟩ := not_or.1 hn
      exact bad ⟨Nat.not_lt.1 hr, not_not.1 hp, Nat.not_lt.1 ha, Nat.not_lt.1 hl⟩
    rw [if_neg hrp]
    rcases enumerated with ha | hl
    · rw [onOff?_none ha]
    · rw [Link.ofNat?_none hl]; cases onOff? auto <;> rfl

/-- R48's checks of the device, in their order, and `t` where they all pass. -/
def State.openChecked (s : State) (a : Ask) (f k pages : Nat) (t : State) : State :=
  if 3 < k then s.refuse a .badIndex []
  else if (s.feed f).state ≠ .closed then s.refuse a .feedBusy []
  else if (s.kernel k).state ≠ .ready then s.refuse a .noKernel []
  else if s.freeList.length < pages then s.refuse a .noPages []
  else t

/-- With the operands in order, the checks of the device come next, and then the opening. -/
theorem ownOpenFeed_operandsOk (he : s.engine = .run) (hf : f ≤ 127) (hr : rate ≤ 3)
    (hp : pages = 1 ∨ pages = 2 ∨ pages = 4 ∨ pages = 8) {on : Bool} (ha : onOff? auto = some on) {l : Link}
    (hl : Link.ofNat? ret = some l) :
    s.ownOpenFeed a f rate k pages target auto ret start =
      s.openChecked a f k pages
        ((s.openFeed f rate k pages target on l (start.map (BitVec.ofNat 48))).reply a .ok
          [wordNat (pages * 256), wordNat (clampTarget (pages * 256) target), wordNat (nominalStep rate s.houseRate)]) := by
  have ready : (!s.kernelReady k) = true ↔ (s.kernel k).state ≠ .ready := by simp [State.kernelReady]
  rw [State.ownOpenFeed, if_neg (not_not.2 he), if_neg (Nat.not_lt.2 hf),
    if_neg (not_or.2 ⟨Nat.not_lt.2 hr, not_not.2 hp⟩), ha, hl]
  simp only [ready, State.openChecked]

theorem ownOpenFeed_checked (he : s.engine = .run) (hf : f ≤ 127) (ok : openOperandsOk rate pages auto ret) :
    ∃ t, s.ownOpenFeed a f rate k pages target auto ret start = s.openChecked a f k pages t := by
  obtain ⟨hr, hp, ha, hl⟩ := ok
  obtain ⟨on, ha⟩ := onOff?_known ha
  obtain ⟨l, rfl⟩ := Link.exists_num hl
  exact ⟨_, ownOpenFeed_operandsOk a k target start he hf hr hp ha (Link.ofNat?_num l)⟩

variable {k} {t : State}

theorem openChecked_badIndex (hk : 3 < k) : s.openChecked a f k pages t = s.refuse a .badIndex [] := if_pos hk

theorem openChecked_feedBusy (hk : k ≤ 3) (hc : (s.feed f).state ≠ .closed) :
    s.openChecked a f k pages t = s.refuse a .feedBusy [] := by
  rw [State.openChecked, if_neg (Nat.not_lt.2 hk), if_pos hc]

theorem openChecked_noKernel (hk : k ≤ 3) (hc : (s.feed f).state = .closed) (hr : (s.kernel k).state ≠ .ready) :
    s.openChecked a f k pages t = s.refuse a .noKernel [] := by
  rw [State.openChecked, if_neg (Nat.not_lt.2 hk), if_neg (not_not.2 hc), if_pos hr]

theorem openChecked_noPages (hk : k ≤ 3) (hc : (s.feed f).state = .closed) (hr : (s.kernel k).state = .ready)
    (hp : s.freeList.length < pages) : s.openChecked a f k pages t = s.refuse a .noPages [] := by
  rw [State.openChecked, if_neg (Nat.not_lt.2 hk), if_neg (not_not.2 hc), if_neg (not_not.2 hr), if_pos hp]

theorem openChecked_passed (hk : k ≤ 3) (hc : (s.feed f).state = .closed) (hr : (s.kernel k).state = .ready)
    (hp : pages ≤ s.freeList.length) : s.openChecked a f k pages t = t := by
  rw [State.openChecked, if_neg (Nat.not_lt.2 hk), if_neg (not_not.2 hc), if_neg (not_not.2 hr), if_neg (Nat.not_lt.2 hp)]

end

section
variable (s : State) (n rate k pages target : Nat) (auto : Bool) (ret : Link) (start : Option Time)

theorem openFeed_eq :
    s.openFeed n rate k pages target auto ret start =
      { s with
        feeds := (s.openFeed n rate k pages target auto ret start).feeds, freeList := s.freeList.drop pages,
        owners := (s.openFeed n rate k pages target auto ret start).owners,
        kernels := (s.openFeed n rate k pages target auto ret start).kernels } := by
  unfold State.openFeed State.raiseInUse; dsimp only; rw [takePages_eq]; rfl

/-- A feed context as OPEN FEED leaves it (R49, R35), on the pages `ps` and with the nominal step `nom`. -/
def Feed.opened (ps : List Nat) (nom : Nat) : Feed :=
  { state := .priming, binding := none, returnLink := ret, pages := ps, readIndex := 0, writeIndex := 0, fill := 0,
    target := clampTarget (pages * 256) target, start := start, autoFlow := auto, hold := false, critical := false,
    paused := false, parity := false, expected := none, overflowCount := 0, underrunCount := 0, gapCount := 0, lateCount := 0,
    sticky := 0, rateCode := rate, kernel := k, nominal := nom, correction := 0, integrator := 0, step := nom, position := 0,
    history := zeroHistory, clipCount := 0 }

@[simp] theorem feed_openFeed_same :
    (s.openFeed n rate k pages target auto ret start).feed n =
      Feed.opened rate k pages target auto ret start (s.freeList.take pages) (nominalStep rate s.houseRate) :=
  feed_setFeed_same _ _ _

theorem feed_openFeed_other {g : Nat} (h : n ≠ g) :
    (s.openFeed n rate k pages target auto ret start).feed g = s.feed g := by
  unfold State.openFeed; dsimp only; rw [feed_setFeed, if_neg h, State.raiseInUse, takePages_eq]; rfl

theorem owner_openFeed (p : Nat) :
    (s.openFeed n rate k pages target auto ret start).owner p = if p ∈ s.freeList.take pages then .feed n else s.owner p :=
  owner_takePages s _ _ p

theorem kernel_openFeed (j : Nat) :
    (s.openFeed n rate k pages target auto ret start).kernel j =
      if j = k then { s.kernel k with inUse := (s.kernel k).inUse + 1 } else s.kernel j := by
  show (State.setKernel _ k _).kernel j = _
  rw [kernel_setKernel, takePages_eq]
  exact if_congr eq_comm rfl rfl

end

/-- Settles O17: the device `t` is `State.openFeed` of the device handed over, told store by store. -/
theorem openFeedPrimes : Obligations.OpenFeedPrimes := by
  intro h f rate k pages target auto ret start on l s he hf hr hp ha hl hk hc hready hfree rd u aim
  refine ⟨u.openFeed f rate k pages target on l (start.map (BitVec.ofNat 48)), exec_of_own rd ?row, openFeed_eq .., ?feed,
    fun g hg => ?otherFeed, ?kernel, fun j hj => ?otherKernel, fun p => ?owner⟩
  case row =>
    exact (ownOpenFeed_operandsOk _ k target start (handed_engine he) hf hr hp ha hl).trans
      (openChecked_passed _ hk hc hready hfree)
  case feed => exact feed_openFeed_same ..
  case otherFeed => exact feed_openFeed_other (h := Ne.symm hg) ..
  case kernel => exact (kernel_openFeed ..).trans (if_pos rfl)
  case otherKernel => exact (kernel_openFeed ..).trans (if_neg hj)
  case owner => exact owner_openFeed ..

/-- Settles O18: the owner makes R48's checks in R48's order, so each refusal needs no more than that the earlier ones passed. -/
theorem openFeedChecksInOrder : Obligations.OpenFeedChecksInOrder := by
  intro h f rate k pages target auto ret start s rd refused good
  have of_checked (he : s.engine = .run) (hf : f ≤ 127) (ok : good) {st : Status}
      (hst : ∀ a t, (s.handed h).openChecked a f k pages t = (s.handed h).refuse a st []) : refused st := by
    obtain ⟨t, own⟩ := ownOpenFeed_checked (s := s.handed h) _ k target start (handed_engine he) hf ok
    exact exec_of_own rd (own.trans (hst _ t))
  refine ⟨fun he => ?wrongState, fun he hf => ?badFeed, fun he hf bad => ?badOperand, fun he hf ok hk => ?badSet,
    fun he hf ok hk hc => ?feedBusy, fun he hf ok hk hc hr => ?noKernel, fun he hf ok hk hc hr hp => ?noPages⟩
  case wrongState => exact exec_of_own rd (ownOpenFeed_config _ k target start (handed_engine he))
  case badFeed => exact exec_of_own rd (ownOpenFeed_badIndex _ k target start (handed_engine he) hf)
  case badOperand => exact exec_of_own rd (ownOpenFeed_badOperand _ k target start (handed_engine he) hf bad)
  case badSet => exact of_checked he hf ok fun _ _ => openChecked_badIndex _ hk
  case feedBusy => exact of_checked he hf ok fun _ _ => openChecked_feedBusy _ hk hc
  case noKernel => exact of_checked he hf ok fun _ _ => openChecked_noKernel _ hk hc hr
  case noPages => exact of_checked he hf ok fun _ _ => openChecked_noPages _ hk hc hr hp

/-! ### CLOSE FEED (R53, R54, R56) -/

theorem closeMode?_none : ∀ {m : Nat}, m ≠ 1 → m ≠ 2 → closeMode? m = none
  | 0, _, _ => rfl
  | 1, h1, _ => absurd rfl h1
  | 2, _, h2 => absurd rfl h2
  | _ + 3, _, _ => rfl

theorem closeMode?_known {m : Nat} (hm : m = 1 ∨ m = 2) : ∃ c, closeMode? m = some c := by
  rcases hm with rfl | rfl
  exacts [⟨.immediate, rfl⟩, ⟨.drain, rfl⟩]

/-- A reply leaves the feeds. -/
theorem feed_reply (s : State) (a : Ask) (st : Status) (ws : List Word) : (s.reply a st ws).feed = s.feed :=
  feed_congr (by rw [reply_eq])

section
variable {s : State} {f : Nat}

theorem drainFeed_draining (hd : (s.feed f).state = .draining) : s.drainFeed f = s := if_pos hd

theorem drainFeed_empty (hd : (s.feed f).state ≠ .draining) (h0 : (s.feed f).fill = 0) : s.drainFeed f = s.closeFeed f :=
  (if_neg hd).trans (if_pos h0)

theorem drainFeed_filled (hd : (s.feed f).state ≠ .draining) (h0 : (s.feed f).fill ≠ 0) :
    s.drainFeed f = s.setFeed f { s.feed f with state := .draining, start := none } :=
  (if_neg hd).trans (if_neg h0)

theorem drainEvent_open {before : FeedState} (h : before = .draining ∨ (s.feed f).state ≠ .closed) : s.drainEvent f before = s :=
  if_neg fun ⟨hb, hc⟩ => h.elim hb fun h => h hc

theorem drainEvent_closed {before : FeedState} (hb : before ≠ .draining) (hc : (s.feed f).state = .closed) :
    s.drainEvent f before = s.stateEvent f .stateClosed .closed := if_pos ⟨hb, hc⟩

variable (a : Ask) {m : Nat}

theorem ownCloseFeed_badIndex (hf : 127 < f) : s.ownCloseFeed a f m = s.refuse a .badIndex [] := if_pos hf

theorem ownCloseFeed_badMode (hf : f ≤ 127) (hm : closeMode? m = none) :
    s.ownCloseFeed a f m = s.refuse a .badOperand [] := by
  rw [State.ownCloseFeed, if_neg (Nat.not_lt.2 hf), hm]

theorem ownCloseFeed_closed (hf : f ≤ 127) {c : CloseMode} (hm : closeMode? m = some c) (hc : (s.feed f).state = .closed) :
    s.ownCloseFeed a f m = s.refuse a .feedClosed [] := by
  rw [State.ownCloseFeed, if_neg (Nat.not_lt.2 hf), hm]
  exact if_pos hc

theorem ownCloseFeed_immediate (hf : f ≤ 127) (ho : (s.feed f).state ≠ .closed) :
    s.ownCloseFeed a f 1 = (s.closeFeed f).reply a .ok [0, wordNat (s.feed f).fill] := by
  rw [State.ownCloseFeed, if_neg (Nat.not_lt.2 hf)]
  refine (if_neg ho).trans ?_
  show (s.closeFeed f).reply a .ok [wordNat ((s.closeFeed f).feed f).state.num, _] = _
  rw [feed_closeFeed_same]; rfl

theorem ownCloseFeed_drain (hf : f ≤ 127) (ho : (s.feed f).state ≠ .closed) :
    let x := (s.drainFeed f).feed f
    s.ownCloseFeed a f 2 =
      ((s.drainFeed f).reply a .ok [wordNat x.state.num, wordNat x.fill]).drainEvent f (s.feed f).state := by
  rw [State.ownCloseFeed, if_neg (Nat.not_lt.2 hf)]
  exact if_neg ho

theorem ownCloseFeed_drain_draining (hf : f ≤ 127) (hd : (s.feed f).state = .draining) :
    s.ownCloseFeed a f 2 = s.reply a .ok [4, wordNat (s.feed f).fill] := by
  rw [ownCloseFeed_drain a hf (by simp [hd]), drainFeed_draining hd, drainEvent_open (.inl hd), hd]; rfl

theorem ownCloseFeed_drain_filled (hf : f ≤ 127) (ho : (s.feed f).state ≠ .closed) (hd : (s.feed f).state ≠ .draining)
    (h0 : (s.feed f).fill ≠ 0) :
    s.ownCloseFeed a f 2 =
      (s.setFeed f { s.feed f with state := .draining, start := none }).reply a .ok [4, wordNat (s.feed f).fill] := by
  rw [ownCloseFeed_drain a hf ho, drainFeed_filled hd h0, drainEvent_open (.inr (by simp [feed_reply])), feed_setFeed_same]; rfl

theorem ownCloseFeed_drain_empty (hf : f ≤ 127) (ho : (s.feed f).state ≠ .closed) (hd : (s.feed f).state ≠ .draining)
    (h0 : (s.feed f).fill = 0) :
    s.ownCloseFeed a f 2 = ((s.closeFeed f).reply a .ok [0, 0]).stickyEvent f .stateClosed .state [0, 0] := by
  have shut (ws : List Word) : ((s.closeFeed f).reply a .ok ws).feed f = (s.feed f).shut := by
    rw [feed_reply, feed_closeFeed_same]
  rw [ownCloseFeed_drain a hf ho, drainFeed_empty hd h0, drainEvent_closed hd (by rw [shut]; rfl), State.stateEvent, shut,
    feed_closeFeed_same]
  rfl

end

/-- Settles O19: in both closes the device `t` is `State.closeFeed` of the device handed over. -/
theorem closeFeedClosesOrDrains : Obligations.CloseFeedClosesOrDrains := by
  refine ⟨fun h f m s hf rd => exec_of_own rd (ownCloseFeed_badIndex _ hf), ?_⟩
  intro h f s hf u x closes
  have closed : closes (u.closeFeed f) :=
    ⟨closeFeed_eq u f, feed_closeFeed_same u f, fun g hg => feed_closeFeed_other u (Ne.symm hg), owner_closeFeed u f,
      (kernel_closeFeed u f x.kernel).trans (if_pos rfl), fun k hk => (kernel_closeFeed u f k).trans (if_neg hk)⟩
  refine ⟨fun rd ho => ⟨u.closeFeed f, closed, ?immediate⟩, fun rd ho hd h0 => ?filled, fun rd hd => ?draining,
    fun rd ho hd h0 => ⟨u.closeFeed f, closed, ?empty⟩, fun m h1 h2 rd => ?badMode, fun m hm rd hc => ?closedFeed⟩
  case immediate => exact exec_of_own rd (ownCloseFeed_immediate _ hf ho)
  case filled => exact exec_of_own rd (ownCloseFeed_drain_filled _ hf ho hd h0)
  case draining => exact exec_of_own rd (ownCloseFeed_drain_draining _ hf hd)
  case empty => exact exec_of_own rd (ownCloseFeed_drain_empty _ hf ho hd h0)
  case badMode => exact exec_of_own rd (ownCloseFeed_badMode _ hf (closeMode?_none h1 h2))
  case closedFeed =>
    obtain ⟨c, hc'⟩ := closeMode?_known hm
    exact exec_of_own rd (ownCloseFeed_closed _ hf hc' hc)

end Sys2Proof.Machine

/-! PROOFS. The page pool (file 04, R79): sample memory as lists of pages by owner, the one way in which a page changes its owner,
and the statement that every step keeps owner records, free list and page lists in agreement. -/

namespace Sys2Proof.Machine

/-! ### Steps as chains of effects -/

/-- A step from a waiting command, or an idle one, is a chain of effects. -/
theorem step_effects {s t : State} (h : step s = .next t) : Effects 64 s t := by
  unfold step at h
  split at h
  · cases h; exact .refl s
  · exact (effects_quiet rfl).andThen (exec_effects h)

/-- What each single effect keeps, a chain of effects keeps. -/
theorem Effects.keep {m : Nat} {P : State → Prop} (one : ∀ s t, Effect m s t → P s → P t) {s t : State} (h : Effects m s t)
    (hs : P s) : P t := by
  induction h with
  | refl => exact hs
  | tail _ e ih => exact one _ _ e ih

/-! ### Pages by owner (R74, R79) -/

/-- The list in which the pages of owner `o` stand: the free list, a feed's buffer, or a bus's delay line. -/
def State.pagesOf (s : State) : Owner → List Nat
  | .free => s.freeList
  | .feed n => (s.feed n).pages
  | .bus b => (s.bus b).pages

/-- The owners a page may have: the free list, feeds 0 to 127 and buses 0 to 63. -/
def pageOwners : List Owner := .free :: ((List.range Config.feeds).map .feed ++ (List.range Config.buses).map .bus)

theorem free_mem_pageOwners : .free ∈ pageOwners := List.mem_cons_self ..

theorem feed_mem_pageOwners {n : Nat} : .feed n ∈ pageOwners ↔ n < Config.feeds := by simp [pageOwners]

theorem bus_mem_pageOwners {b : Nat} : .bus b ∈ pageOwners ↔ b < Config.buses := by simp [pageOwners]

theorem nodup_pageOwners : pageOwners.Nodup := by
  have feeds : ((List.range Config.feeds).map Owner.feed).Nodup := List.nodup_range.map fun _ _ => Owner.feed.inj
  have buses : ((List.range Config.buses).map Owner.bus).Nodup := List.nodup_range.map fun _ _ => Owner.bus.inj
  exact List.nodup_cons.2 ⟨by simp, feeds.append buses (by simp [List.Disjoint])⟩

/-- R79 in one spelling for every owner: each page stands once, in the list of its owner; only the owners that exist hold pages,
and a CLOSED feed holds none. -/
structure State.PoolSound (s : State) : Prop where
  nodup : ∀ o, (s.pagesOf o).Nodup
  mem_iff : ∀ o p, p ∈ s.pagesOf o ↔ p < Config.pages ∧ s.owner p = o
  above : ∀ p, Config.pages ≤ p → s.owner p = .free
  exist : ∀ o, o ∉ pageOwners → s.pagesOf o = []
  closed : ∀ n, (s.feed n).state = .closed → s.pagesOf (.feed n) = []

namespace State.PoolSound

variable {s : State}

/-- The lists of all owners, one after the other, hold the 512 pages, each once. -/
theorem perm_range (h : s.PoolSound) : (pageOwners.flatMap s.pagesOf).Perm (List.range Config.pages) := by
  have apart : pageOwners.Pairwise fun o q => (s.pagesOf o).Disjoint (s.pagesOf q) := by
    refine nodup_pageOwners.imp fun hne p ho hq => hne ?_
    exact ((h.mem_iff _ p).1 ho).2.symm.trans ((h.mem_iff _ p).1 hq).2
  refine (List.perm_ext_iff_of_nodup (List.nodup_flatMap.2 ⟨fun o _ => h.nodup o, apart⟩) List.nodup_range).2 fun p => ?_
  rw [List.mem_flatMap, List.mem_range]
  refine ⟨fun ⟨o, _, hp⟩ => ((h.mem_iff o p).1 hp).1, fun hp => ?_⟩
  have stands : p ∈ s.pagesOf (s.owner p) := (h.mem_iff _ p).2 ⟨hp, rfl⟩
  exact ⟨s.owner p, by_contra fun no => List.not_mem_nil (h.exist _ no ▸ stands), stands⟩

/-- Free and held pages number 512. -/
theorem count (h : s.PoolSound) : s.freeList.length + s.pagesInFeeds + s.pagesInLines = Config.pages := by
  calc s.freeList.length + s.pagesInFeeds + s.pagesInLines
      = (pageOwners.flatMap s.pagesOf).length := by
        simp only [pageOwners, List.length_flatMap, List.map_cons, List.map_append, List.map_map, List.sum_cons,
          List.sum_append, ← Nat.add_assoc]
        rfl
    _ = Config.pages := by rw [h.perm_range.length_eq, List.length_range]

theorem agrees (h : s.PoolSound) : s.PoolAgrees := by
  have held {o : Owner} (ho : o ≠ .free) (p : Nat) : s.owner p = o ↔ p ∈ s.pagesOf o := by
    refine ⟨fun e => (h.mem_iff o p).2 ⟨?_, e⟩, fun hp => ((h.mem_iff o p).1 hp).2⟩
    exact Nat.lt_of_not_le fun hp => ho (e.symm.trans (h.above p hp))
  refine ⟨h.nodup .free, fun p => ⟨fun e => ?_, ?_⟩, fun p hp => ((h.mem_iff .free p).1 hp).1,
    fun n => ⟨h.nodup (.feed n), held nofun⟩, fun b => ⟨h.nodup (.bus b), held nofun⟩,
    fun b hb => h.exist (.bus b) fun hm => Nat.not_lt.2 hb (bus_mem_pageOwners.1 hm), h.count⟩
  · exact (Nat.lt_or_ge p Config.pages).imp (fun hp => (h.mem_iff .free p).2 ⟨hp, e⟩) id
  · rintro (hp | hp)
    exacts [((h.mem_iff .free p).1 hp).2, h.above p hp]

theorem of_agrees (hf : s.FeedsBounded) (h : s.PoolAgrees) : s.PoolSound := by
  obtain ⟨buffers, feedsExist⟩ := hf
  obtain ⟨freeNodup, free, freeBelow, feeds, buses, busesExist, -⟩ := h
  have below {o : Owner} (ho : o ≠ .free) {p : Nat} (e : s.owner p = o) : p < Config.pages :=
    Nat.lt_of_not_le fun hp => ho (e.symm.trans ((free p).2 (.inr hp)))
  have closed (n : Nat) (hc : (s.feed n).state = .closed) : (s.feed n).pages = [] := ((buffers n).2.2 hc).1
  refine ⟨fun o => ?nodup, fun o p => ?mem, fun p hp => (free p).2 (.inr hp), fun o ho => ?exist, closed⟩
  case nodup =>
    cases o with
    | free => exact freeNodup
    | feed n => exact (feeds n).1
    | bus b => exact (buses b).1
  case mem =>
    cases o with
    | free =>
      refine ⟨fun hp => ⟨freeBelow p hp, (free p).2 (.inl hp)⟩, fun ⟨hp, e⟩ => ?_⟩
      exact ((free p).1 e).resolve_right (Nat.not_le.2 hp)
    | feed n => exact ((feeds n).2 p).symm.trans ⟨fun e => ⟨below (by simp) e, e⟩, And.right⟩
    | bus b => exact ((buses b).2 p).symm.trans ⟨fun e => ⟨below (by simp) e, e⟩, And.right⟩
  case exist =>
    cases o with
    | free => exact absurd free_mem_pageOwners ho
    | feed n => exact closed n (feedsExist n (Nat.not_lt.1 fun hn => ho (feed_mem_pageOwners.2 hn)))
    | bus b => exact busesExist b (Nat.not_lt.1 fun hb => ho (bus_mem_pageOwners.2 hb))

end State.PoolSound

theorem poolSound_reset : State.reset.PoolSound := by
  have free (p : Nat) : State.reset.owner p = .free := rfl
  refine ⟨fun o => ?_, fun o p => ?_, fun p _ => free p, fun o ho => ?_, fun _ _ => rfl⟩
  · cases o with
    | free => rw [State.pagesOf, freeList_reset]; exact List.nodup_range
    | feed n => exact List.nodup_nil
    | bus b => exact List.nodup_nil
  · rw [free]
    cases o with
    | free => rw [State.pagesOf, freeList_reset, List.mem_range]; exact (and_iff_left rfl).symm
    | feed n => exact iff_of_false List.not_mem_nil fun h => nomatch h.2
    | bus b => exact iff_of_false List.not_mem_nil fun h => nomatch h.2
  · cases o with
    | free => exact absurd free_mem_pageOwners ho
    | feed n => rfl
    | bus b => rfl

/-! ### What an effect does to the pool (R75 to R78) -/

/-- No page has changed its owner or its place, and no feed has closed or opened. -/
structure State.SamePool (s t : State) : Prop where
  pages : t.pagesOf = s.pagesOf
  owner : t.owner = s.owner
  closed : ∀ n, (t.feed n).state = .closed ↔ (s.feed n).state = .closed

theorem State.PoolSound.same {s t : State} (h : s.PoolSound) (e : s.SamePool t) : t.PoolSound := by
  refine ⟨?_, ?_, ?_, ?_, fun n hc => ?_⟩
  · rw [e.pages]; exact h.nodup
  · rw [e.pages, e.owner]; exact h.mem_iff
  · rw [e.owner]; exact h.above
  · rw [e.pages]; exact h.exist
  · rw [e.pages]; exact h.closed n ((e.closed n).1 hc)

/-- The free list with the pages of owner `o` at its back, where they go when they are returned (R75, R77). -/
def State.poolWith (s : State) (o : Owner) : List Nat := s.freeList ++ s.pagesOf o

/-- Owner `o` has returned its pages and then been lent the first `k` of the free list. A close lends none, and an open has none
to return. -/
structure State.Relends (s : State) (o : Owner) (k : Nat) (t : State) : Prop where
  holder : o ≠ .free
  free : t.freeList = (s.poolWith o).drop k
  lent : t.pagesOf o = (s.poolWith o).take k
  others : ∀ q, q ≠ .free → q ≠ o → t.pagesOf q = s.pagesOf q
  owner : ∀ p, t.owner p = if p ∈ (s.poolWith o).take k then o else if p ∈ s.pagesOf o then .free else s.owner p
  closed : ∀ n, (t.feed n).state = .closed → .feed n = o ∧ k = 0 ∨ .feed n ≠ o ∧ (s.feed n).state = .closed

section
variable {s t : State} {o : Owner} {k : Nat}

theorem State.PoolSound.mem_poolWith (h : s.PoolSound) (p : Nat) :
    p ∈ s.poolWith o ↔ p < Config.pages ∧ (s.owner p = .free ∨ s.owner p = o) := by
  rw [State.poolWith, List.mem_append, and_or_left]
  exact or_congr (h.mem_iff .free p) (h.mem_iff o p)

theorem State.PoolSound.nodup_poolWith (h : s.PoolSound) (ho : o ≠ .free) : (s.poolWith o).Nodup := by
  refine (h.nodup .free).append (h.nodup o) fun p hp hq => ho ?_
  exact ((h.mem_iff o p).1 hq).2.symm.trans ((h.mem_iff .free p).1 hp).2

/-- A page lent has left the free list. -/
theorem State.PoolSound.mem_drop_iff (h : s.PoolSound) (ho : o ≠ .free) (p : Nat) :
    p ∈ (s.poolWith o).drop k ↔ p ∈ s.poolWith o ∧ p ∉ (s.poolWith o).take k := by
  have apart := List.disjoint_take_drop (h.nodup_poolWith ho) (Nat.le_refl k)
  refine ⟨fun hp => ⟨List.mem_of_mem_drop hp, fun hq => apart hq hp⟩, fun ⟨hp, hq⟩ => ?_⟩
  rw [← List.take_append_drop k (s.poolWith o), List.mem_append] at hp
  exact hp.resolve_left hq

/-- After the exchange each page stands in the list of its new owner: a page lent, a page returned and not lent again, and every
other page. -/
theorem State.Relends.mem_iff (e : s.Relends o k t) (h : s.PoolSound) (q : Owner) (p : Nat) :
    p ∈ t.pagesOf q ↔ p < Config.pages ∧ t.owner p = q := by
  have pages : p ∈ t.pagesOf q ↔
      if q = .free then p ∈ s.poolWith o ∧ p ∉ (s.poolWith o).take k
      else if q = o then p ∈ (s.poolWith o).take k else p < Config.pages ∧ s.owner p = q := by
    split
    · rename_i hq; rw [hq, ← h.mem_drop_iff e.holder, ← e.free]; rfl
    · rename_i hq
      split
      · rename_i hqo; rw [hqo, e.lent]
      · rename_i hqo; rw [e.others q hq hqo, h.mem_iff]
  have ho := e.holder
  have pool := h.mem_poolWith (o := o) p
  have old := h.mem_iff o p
  rw [pages, e.owner]
  by_cases lent : p ∈ (s.poolWith o).take k
  · have := pool.1 (List.mem_of_mem_take lent)
    grind
  · by_cases returned : p ∈ s.pagesOf o
    · have := old.1 returned
      grind
    · grind

theorem State.PoolSound.relend (h : s.PoolSound) (e : s.Relends o k t) (ho : o ∈ pageOwners ∨ k = 0) : t.PoolSound := by
  have nodup := h.nodup_poolWith e.holder
  refine ⟨fun q => ?nodup, e.mem_iff h, fun p hp => ?above, fun q hq => ?exist, fun n hc => ?closed⟩
  case nodup =>
    by_cases hq : q = .free
    · rw [hq, State.pagesOf, e.free]; exact nodup.sublist (List.drop_sublist ..)
    · by_cases hqo : q = o
      · rw [hqo, e.lent]; exact nodup.sublist (List.take_sublist ..)
      · rw [e.others q hq hqo]; exact h.nodup q
  case above =>
    have outside : p ∉ s.poolWith o := fun hm => Nat.not_lt.2 hp ((h.mem_poolWith p).1 hm).1
    rw [e.owner, if_neg fun hm => outside (List.mem_of_mem_take hm),
      if_neg fun hm => outside (List.mem_append_right _ hm), h.above p hp]
  case exist =>
    by_cases hqo : q = o
    · rw [hqo, e.lent, ho.resolve_left (hqo ▸ hq), List.take_zero]
    · rw [e.others q (fun hf => hq (hf ▸ free_mem_pageOwners)) hqo]
      exact h.exist q hq
  case closed =>
    obtain ⟨hn, hk⟩ | ⟨hn, hs⟩ := e.closed n hc
    · rw [hn, e.lent, hk, List.take_zero]
    · rw [e.others _ (by simp) hn]; exact h.closed n hs

end

section
variable {s t : State}

/-- Where the stores of owners, free pages, feeds and buses are left, so is the pool. -/
theorem samePool_of_stores (ho : t.owners = s.owners) (hf : t.freeList = s.freeList) (hd : t.feeds = s.feeds)
    (hb : t.buses = s.buses) : s.SamePool t := by
  refine ⟨funext fun o => ?_, owner_congr ho, fun n => by rw [feed_congr hd]⟩
  cases o with
  | free => exact hf
  | feed n => exact congrArg Feed.pages (congrFun (feed_congr hd) n)
  | bus b => exact congrArg Bus.pages (congrFun (bus_congr hb) b)

theorem samePool_onlySlots (h : s.OnlySlots t) : s.SamePool t := by
  unfold State.OnlySlots at h
  rw [h]
  exact samePool_of_stores rfl rfl rfl rfl

theorem samePool_setBus (s : State) {b : Nat} {x : Bus} (hp : x.pages = (s.bus b).pages) : s.SamePool (s.setBus b x) := by
  refine ⟨funext fun o => ?_, rfl, fun _ => Iff.rfl⟩
  cases o with
  | free => rfl
  | feed n => rfl
  | bus c =>
    show ((s.setBus b x).bus c).pages = _
    rw [bus_setBus]
    split
    · rename_i hc; rw [hp, hc]; rfl
    · rfl

theorem samePool_setFeed (s : State) {n : Nat} {x : Feed} (hp : x.pages = (s.feed n).pages)
    (hc : x.state = .closed ↔ (s.feed n).state = .closed) : s.SamePool (s.setFeed n x) := by
  refine ⟨funext fun o => ?_, rfl, fun g => ?_⟩
  · cases o with
    | free => rfl
    | bus c => rfl
    | feed g =>
      show ((s.setFeed n x).feed g).pages = _
      rw [feed_setFeed]
      split
      · rename_i hg; rw [hp, hg]; rfl
      · rfl
  · rw [feed_setFeed]
    split
    · rename_i hg; rw [hc, hg]
    · rfl

theorem State.SamePool.trans {u : State} (h : s.SamePool t) (g : t.SamePool u) : s.SamePool u :=
  ⟨g.pages.trans h.pages, g.owner.trans h.owner, fun n => (g.closed n).trans (h.closed n)⟩

theorem samePool_moveInUse (s : State) (old new : Nat) : s.SamePool (s.moveInUse old new) := by
  unfold State.moveInUse
  split <;> exact samePool_of_stores rfl rfl rfl rfl

theorem samePool_retune (s : State) (n rate k : Nat) : s.SamePool (s.retune n rate k) := by
  have counts := samePool_moveInUse s (s.feed n).kernel k
  have feeds : (s.moveInUse (s.feed n).kernel k).feed = s.feed := by
    unfold State.moveInUse; split <;> rfl
  refine counts.trans (samePool_setFeed _ ?_ ?_)
  · rw [feeds]; rfl
  · rw [feeds]; exact Iff.rfl

theorem samePool_addBank (s : State) (b : Nat) (t : TableId) : s.SamePool (s.addBank b t) := by
  cases t <;> exact samePool_of_stores rfl rfl rfl rfl

end

/-- R77: a feed that closes returns all its pages. -/
theorem relends_closeFeed (s : State) (n : Nat) : s.Relends (.feed n) 0 (s.closeFeed n) := by
  have free : (s.closeFeed n).freeList = s.freeList ++ (s.feed n).pages := by rw [closeFeed_eq]
  have bus : (s.closeFeed n).bus = s.bus := bus_congr (by rw [closeFeed_eq])
  refine ⟨nofun, free, ?lent, fun q hf hq => ?others, fun p => ?owner, fun g hc => ?closed⟩
  case lent => show ((s.closeFeed n).feed n).pages = _; rw [feed_closeFeed_same]; rfl
  case others =>
    cases q with
    | free => exact absurd rfl hf
    | feed g => exact congrArg Feed.pages (feed_closeFeed_other s fun e => hq (e ▸ rfl))
    | bus b => exact congrArg Bus.pages (congrFun bus b)
  case owner => rw [owner_closeFeed, List.take_zero, if_neg List.not_mem_nil]; rfl
  case closed =>
    by_cases hg : n = g
    · exact .inl ⟨hg ▸ rfl, rfl⟩
    · exact .inr ⟨fun e => hg (Owner.feed.inj e).symm, feed_closeFeed_other s hg ▸ hc⟩

/-- R75: a CLOSED feed that opens, and so has no pages to return, is lent the front of the free list. -/
theorem relends_openFeed {s : State} {n : Nat} (hn : (s.feed n).pages = []) (rate k pages target : Nat) (auto : Bool) (ret : Link)
    (start : Option Time) : s.Relends (.feed n) pages (s.openFeed n rate k pages target auto ret start) := by
  have noPages : s.pagesOf (.feed n) = [] := hn
  have pool : s.poolWith (.feed n) = s.freeList := by rw [State.poolWith, noPages, List.append_nil]
  have bus : (s.openFeed n rate k pages target auto ret start).bus = s.bus := bus_congr (by rw [openFeed_eq])
  refine ⟨nofun, ?free, ?lent, fun q hf hq => ?others, fun p => ?owner, fun g hc => ?closed⟩
  case free => rw [openFeed_eq, pool]
  case lent => show (State.feed _ n).pages = _; rw [feed_openFeed_same, pool]; rfl
  case others =>
    cases q with
    | free => exact absurd rfl hf
    | feed g =>
      have hg : n ≠ g := fun e => hq (e ▸ rfl)
      exact congrArg Feed.pages (feed_openFeed_other (h := hg) ..)
    | bus b => exact congrArg Bus.pages (congrFun bus b)
  case owner => rw [owner_openFeed, pool, noPages, if_neg (List.not_mem_nil (a := p))]
  case closed =>
    by_cases hg : n = g
    · subst hg; rw [feed_openFeed_same] at hc; cases hc
    · rw [feed_openFeed_other (h := hg)] at hc
      exact .inr ⟨fun e => hg (Owner.feed.inj e).symm, hc⟩

/-- R78: a bus whose delay is set returns its pages and is then lent those of the new delay. -/
theorem relends_exchangeDelay (s : State) (b d : Nat) : s.Relends (.bus b) (pagesFor d) (s.exchangeDelay b d) := by
  have feed : (s.exchangeDelay b d).feed = s.feed := feed_congr (by rw [exchangeDelay_eq])
  refine ⟨nofun, ?free, ?lent, fun q hf hq => ?others, owner_exchangeDelay s b d, fun g hc => .inr ⟨nofun, feed ▸ hc⟩⟩
  case free => rw [exchangeDelay_eq]; rfl
  case lent => show ((s.exchangeDelay b d).bus b).pages = _; rw [bus_exchangeDelay, if_pos rfl]; rfl
  case others =>
    cases q with
    | free => exact absurd rfl hf
    | feed g => exact congrArg Feed.pages (congrFun feed g)
    | bus c =>
      show ((s.exchangeDelay b d).bus c).pages = _
      rw [bus_exchangeDelay, if_neg fun e : b = c => hq (e ▸ rfl)]
      rfl

/-- Only a close, an open, an exchange of delay pages and a reset touch the pool; each leaves it sound. -/
theorem effect_poolSound {m : Nat} {s t : State} (e : Effect m s t) (h : s.PoolSound) : t.PoolSound := by
  cases e with
  | close n _ => exact h.relend (relends_closeFeed s n) (.inr rfl)
  | openFeed n rate k pages target auto ret start _ hn hc _ _ =>
    exact h.relend (relends_openFeed (h.closed n hc) ..) (.inl (feed_mem_pageOwners.2 hn))
  | exchange b d _ hb _ => exact h.relend (relends_exchangeDelay s b d) (.inl (bus_mem_pageOwners.2 hb))
  | resets _ _ ht _ _ => exact poolSound_reset.same (samePool_of_stores (by rw [ht]) (by rw [ht]) (by rw [ht]) (by rw [ht]))
  | bus b x hp => exact h.same (samePool_setBus s hp)
  | feed n x hx => exact h.same (samePool_setFeed s hx.pages hx.closed)
  | retune n rate k _ _ _ _ => exact h.same (samePool_retune s n rate k)
  | image tb i img _ _ => exact h.same (samePool_onlySlots (onlySlots_putImage s tb i img))
  | carry b _ _ _ _ => exact h.same (samePool_onlySlots (onlySlots_carry ..))
  | bank b tb _ _ _ => exact h.same (samePool_addBank s b tb)
  | quiet _ ht => rw [ht]; exact h.same (samePool_of_stores rfl rfl rfl rfl)
  | _ => exact h.same (samePool_of_stores rfl rfl rfl rfl)

/-- Settles O58: with its companion premise the statement's agreement is `State.PoolSound`, which every effect of a step keeps. -/
theorem stepsKeepPoolAgreed : Obligations.StepsKeepPoolAgreed := by
  intro s t hf hs h
  exact ((step_effects h).keep (fun _ _ => effect_poolSound) (.of_agrees hf hs)).agrees

end Sys2Proof.Machine

/-! PROOFS. The report unit (file 10): what an answer to a command comes to (R162) and what becomes of an event offered (R170), each
brought from the laws of the report unit to the queue's own reports. -/

namespace Sys2Proof.Machine

/-- An acknowledged command has the same reply whether it was carried out or refused (R162). -/
theorem reply_eq_refuse_of_acked (s : State) {a : Ask} (st : Status) (ws : List Word) (h : a.acked = true) :
    s.reply a st ws = s.refuse a st ws := by
  rw [reply_acked st ws h, refuse_acked st ws h]

/-- Settles O4: the answers split on the acknowledged flag, the events on the entry count against 56; `State.pushReport` and
`State.event` then say which report it is. -/
theorem answersAndEventsEnterTheQueue : Obligations.AnswersAndEventsEnterTheQueue := by
  refine ⟨fun s a st ws => ⟨fun acked => ⟨?sameAnswer, ?reply⟩, fun posted => ⟨?noReport, ?refusedEvent⟩⟩,
    fun s r => ⟨fun below => ?enters, fun full => ?lost⟩⟩
  case sameAnswer => exact reply_eq_refuse_of_acked s st ws acked
  case reply => exact reply_acked st ws acked
  case noReport => exact reply_posted st ws posted
  case refusedEvent => exact refuse_posted st ws posted
  case enters => exact offer_enters r below
  case lost => exact offer_loses r full

end Sys2Proof.Machine

/-! PROOFS. What every step keeps, one: the canonical form of the numbered stores, the bounds of queues and credits, and the order of
the cue queue. Each invariant is kept by every single effect (`exec_effects`); the effects on a table or on the page pool are
carried out store by store. -/

namespace Sys2Proof.Machine

/-! ### The step (file 09) -/

/-- Settles O1: both clauses are the two branches of `step`. -/
theorem stepRunsFrontCommand : Obligations.StepRunsFrontCommand :=
  ⟨fun c rest s h => by rw [step, h]; rfl, fun s h => by rw [step, h]⟩

/-! ### The numbered stores -/

namespace State.Canonical

variable {s : State}

theorem setBus (h : s.Canonical) (b : Nat) (x : Bus) : (s.setBus b x).Canonical :=
  let ⟨buses, others⟩ := h; ⟨Cells.wf_cellSet b x buses, others⟩

theorem setKernel (h : s.Canonical) (k : Nat) (x : KernelSet) : (s.setKernel k x).Canonical :=
  let ⟨buses, kernels, others⟩ := h; ⟨buses, Cells.wf_cellSet k x kernels, others⟩

theorem setFeed (h : s.Canonical) (n : Nat) (x : Feed) : (s.setFeed n x).Canonical :=
  let ⟨buses, kernels, feeds, others⟩ := h; ⟨buses, kernels, Cells.wf_cellSet n x feeds, others⟩

theorem setOwner (h : s.Canonical) (p : Nat) (o : Owner) : (s.setOwner p o).Canonical :=
  let ⟨buses, kernels, feeds, owners, others⟩ := h; ⟨buses, kernels, feeds, Cells.wf_cellSet p o owners, others⟩

theorem setWord (h : s.Canonical) (a : Nat) (x : Sample) : (s.setWord a x).Canonical :=
  let ⟨buses, kernels, feeds, owners, memory, others⟩ := h; ⟨buses, kernels, feeds, owners, wf_setWord a x memory, others⟩

theorem clearWords (h : s.Canonical) (ps : List Nat) (d : Nat) : (s.clearWords ps d).Canonical :=
  let ⟨buses, kernels, feeds, owners, memory, others⟩ := h; ⟨buses, kernels, feeds, owners, wf_clearWords ps d memory, others⟩

theorem setWindow (h : s.Canonical) (w : Nat) (x : Window) : (s.setWindow w x).Canonical :=
  let ⟨buses, kernels, feeds, owners, memory, windows, slots⟩ := h
  ⟨buses, kernels, feeds, owners, memory, Cells.wf_cellSet w x windows, slots⟩

theorem setSlot (h : s.Canonical) (k : Nat) (x : Slot) : (s.setSlot k x).Canonical :=
  let ⟨buses, kernels, feeds, owners, memory, windows, slots⟩ := h
  ⟨buses, kernels, feeds, owners, memory, windows, Cells.wf_cellSet k x slots⟩

theorem setEntry (h : s.Canonical) (t : TableId) (i : Nat) (x : Slot) : (s.setEntry t i x).Canonical := h.setSlot _ x

theorem ownAll (h : s.Canonical) (o : Owner) (ps : List Nat) : (s.ownAll o ps).Canonical :=
  List.foldlRecOn ps _ h fun _ ht p _ => ht.setOwner p o

theorem takePages (h : s.Canonical) (o : Owner) (n : Nat) : (s.takePages o n).Canonical :=
  ownAll (s := { s with freeList := s.freeList.drop n }) h o _

theorem returnPages (h : s.Canonical) (ps : List Nat) : (s.returnPages ps).Canonical :=
  ownAll (s := { s with freeList := s.freeList ++ ps }) h .free ps

theorem closeFeed (h : s.Canonical) (n : Nat) : (s.closeFeed n).Canonical :=
  ((h.returnPages _).setKernel _ _).setFeed n _

theorem openFeed (h : s.Canonical) (n rate k pages target : Nat) (auto : Bool) (ret : Link) (start : Option Time) :
    (s.openFeed n rate k pages target auto ret start).Canonical :=
  ((h.takePages _ _).setKernel _ _).setFeed n _

theorem moveInUse (h : s.Canonical) (old new : Nat) : (s.moveInUse old new).Canonical := by
  unfold State.moveInUse
  split
  · exact h
  · exact (h.setKernel old _).setKernel new _

theorem retune (h : s.Canonical) (n rate k : Nat) : (s.retune n rate k).Canonical := (h.moveInUse _ k).setFeed n _

theorem exchangeDelay (h : s.Canonical) (b d : Nat) : (s.exchangeDelay b d).Canonical :=
  ((((h.returnPages _).takePages _ _).setBus b _).clearWords _ _).setBus b _

theorem emptySlots (h : s.Canonical) (t : TableId) (is : List Nat) : (s.emptySlots t is).Canonical :=
  List.foldlRecOn is _ h fun _ hu j _ => hu.setEntry t j .empty

theorem putImage (h : s.Canonical) (t : TableId) (i : Nat) (img : Image) : (s.putImage t i img).Canonical := by
  have cleared := h.emptySlots t (s.touched t i img)
  cases img with
  | empty => exact cleared
  | narrow act k v f => exact cleared.setEntry t i _
  | wide act k w v f => exact (cleared.setEntry t i _).setEntry t (i + 1) _
  | route f b p g => exact cleared.setEntry t i _

theorem carry (h : s.Canonical) (t : TableId) (offset : Int) (js : List Nat) : (s.carry t offset js).Canonical :=
  List.foldlRecOn js _ h fun _ hu j _ => (hu.setEntry t (shifted offset j) _).setEntry t j .empty

theorem addBank (h : s.Canonical) (b : Nat) : ∀ t : TableId, (s.addBank b t).Canonical
  | .admission => h
  | .route => h

end State.Canonical

/-- The kernel sets of a device after STARTING: set 0 alone is listed. -/
theorem canonical_reset : State.reset.Canonical := by
  have kernels : Cells.wf KernelSet.initial [(0, KernelSet.linear)] :=
    ⟨List.pairwise_singleton .., fun p hp => by rw [List.mem_singleton.1 hp]; exact fun e => nomatch congrArg KernelSet.state e⟩
  exact ⟨Cells.wf_nil _, kernels, Cells.wf_nil _, Cells.wf_nil _, Cells.wf_nil _, Cells.wf_nil _, Cells.wf_nil _⟩

/-- An effect writes its stores by the named updates, each of which keeps the canonical form. -/
theorem effect_canonical {m : Nat} {s t : State} (e : Effect m s t) (h : s.Canonical) : t.Canonical := by
  cases e with
  | quiet _ ht => rw [ht]; exact h
  | bus b x _ => exact h.setBus b x
  | feed n x _ => exact h.setFeed n x
  | kernel k x _ _ => exact h.setKernel k x
  | word a x => exact h.setWord a x
  | clear ps d => exact h.clearWords ps d
  | window w x => exact h.setWindow w x
  | slot k x _ => exact h.setSlot k x
  | image t i img _ _ => exact h.putImage t i img
  | carry b _ _ _ _ => exact h.carry ..
  | close n _ => exact h.closeFeed n
  | openFeed n rate k pages target auto ret start _ _ _ _ _ => exact h.openFeed ..
  | retune n rate k _ _ _ _ => exact h.retune n rate k
  | exchange b d _ _ _ => exact h.exchangeDelay b d
  | bank b t _ _ _ => exact h.addBank b t
  | resets _ _ ht _ _ => rw [ht]; exact canonical_reset
  | _ => exact h

/-- Settles O54: every effect of a step keeps the canonical form. -/
theorem stepsKeepStoresCanonical : Obligations.StepsKeepStoresCanonical :=
  fun _ _ hs h => (step_effects h).keep (fun _ _ => effect_canonical) hs

/-! ### What an effect on the stores leaves as it is -/

/-- The queues, the arbiters, the block context and the engine state: what no change of a table, of the page pool or of a numbered
store touches. -/
structure Queues where
  reports : List Report
  heldPlace : Bool
  block : Option Block
  fifos : PerLink (List (List Instr))
  arbiters : PerLink Arbiter
  cues : List Cue
  engine : Engine

def State.queues (s : State) : Queues :=
  { reports := s.reports, heldPlace := s.heldPlace, block := s.block, fifos := s.fifos, arbiters := s.arbiters, cues := s.cues,
    engine := s.engine }

section
variable (s : State)

theorem queues_closeFeed (n : Nat) : (s.closeFeed n).queues = s.queues := by rw [closeFeed_eq]; rfl

theorem queues_openFeed (n rate k pages target : Nat) (auto : Bool) (ret : Link) (start : Option Time) :
    (s.openFeed n rate k pages target auto ret start).queues = s.queues := by rw [openFeed_eq]; rfl

theorem queues_retune (n rate k : Nat) : (s.retune n rate k).queues = s.queues := by
  unfold State.retune State.moveInUse
  dsimp only
  split <;> rfl

theorem queues_exchangeDelay (b d : Nat) : (s.exchangeDelay b d).queues = s.queues := by rw [exchangeDelay_eq]; rfl

theorem queues_addBank (b : Nat) (t : TableId) : (s.addBank b t).queues = s.queues := by cases t <;> rfl

variable {s}

theorem queues_onlySlots {t : State} (h : s.OnlySlots t) : t.queues = s.queues := by
  have e := congrArg State.queues h
  exact e

end

section
variable {s t : State}

theorem State.ReportsBounded.congr (h : s.ReportsBounded) (e : t.queues = s.queues) : t.ReportsBounded := by
  have reports : t.reports = s.reports := congrArg Queues.reports e
  have held : t.heldPlace = s.heldPlace := congrArg Queues.heldPlace e
  have block : t.block = s.block := congrArg Queues.block e
  unfold State.ReportsBounded State.entryCount
  rw [reports, held, block]
  exact h

theorem State.LinkBounded.congr {l : Link} (h : s.LinkBounded l) (e : t.queues = s.queues) : t.LinkBounded l := by
  have fifos : t.fifos = s.fifos := congrArg Queues.fifos e
  have arbiters : t.arbiters = s.arbiters := congrArg Queues.arbiters e
  unfold State.LinkBounded State.arb
  rw [fifos, arbiters]
  exact h

theorem State.CuesOrdered.congr (h : s.CuesOrdered) (e : t.queues = s.queues) : t.CuesOrdered := by
  have cues : t.cues = s.cues := congrArg Queues.cues e
  have engine : t.engine = s.engine := congrArg Queues.engine e
  unfold State.CuesOrdered
  rw [cues, engine]
  exact h

end

/-! ### The report queue (R168, R169) -/

/-- Where a place is held, one more report fits than the entries say. -/
theorem reports_length_lt {s : State} (h : s.ReportsBounded) {b : Block} (hb : s.block = some b) (ha : b.acked = true) :
    s.reports.length + 1 ≤ 64 := by
  obtain ⟨count, held⟩ := h
  have place : s.heldPlace = true := by rw [held, hb]; exact ha
  have := count
  rw [State.entryCount, place] at this
  exact this

/-- Reports enter only below the capacity, and a place is held and given up with the block context. -/
theorem effect_reportsBounded {s t : State} (e : Effect 64 s t) (h : s.ReportsBounded) : t.ReportsBounded := by
  have ⟨count, held⟩ := h
  cases e with
  | quiet _ ht => rw [ht]; exact h
  | report r hr =>
    refine ⟨?_, held⟩
    have : (s.reports ++ [r]).length + (if s.heldPlace then 1 else 0) = s.entryCount + 1 := by
      rw [List.length_append, List.length_singleton, State.entryCount]; omega
    exact this.trans_le hr
  | reportsLeave k =>
    refine ⟨le_trans ?_ count, held⟩
    have : (s.reports.drop k).length ≤ s.reports.length := by rw [List.length_drop]; omega
    exact Nat.add_le_add_right this _
  | blockStarts b _ hn hr _ =>
    refine ⟨?_, by simp⟩
    have free : s.heldPlace = false := by rw [held, hn]; rfl
    have entries : s.entryCount = s.reports.length := by rw [State.entryCount, free]; rfl
    show s.reports.length + (if b.acked then 1 else 0) ≤ 64
    by_cases ha : b.acked = true
    · rw [if_pos ha]; have := hr ha; omega
    · rw [if_neg ha]; exact entries ▸ count
  | blockTurns b c _ hb hc _ =>
    refine ⟨count, held.trans ?_⟩
    rw [hb]
    exact hc.symm
  | blockEnds b r _ hb ha =>
    refine ⟨?_, rfl⟩
    have := reports_length_lt h hb ha
    simpa [State.entryCount] using this
  | blockLeaves b _ hb ha =>
    refine ⟨count, held.trans ?_⟩
    rw [hb]
    exact ha
  | resets _ _ ht _ hr =>
    rw [ht]
    exact ⟨hr.trans (by decide), rfl⟩
  | image t i img _ _ => exact h.congr (queues_onlySlots (onlySlots_putImage s t i img))
  | carry b _ _ _ _ => exact h.congr (queues_onlySlots (onlySlots_carry ..))
  | close n _ => exact h.congr (queues_closeFeed s n)
  | openFeed n rate k pages target auto ret start _ _ _ _ _ => exact h.congr (queues_openFeed ..)
  | retune n rate k _ _ _ _ => exact h.congr (queues_retune s n rate k)
  | exchange b d _ _ _ => exact h.congr (queues_exchangeDelay s b d)
  | bank b t _ _ _ => exact h.congr (queues_addBank s b t)
  | _ => exact h

/-! ### The queues and credits of a link (R156, R174, R177, R178) -/

theorem linkBounded_reset (l : Link) : State.reset.LinkBounded l := by cases l <;> decide

theorem effect_linkBounded {m : Nat} {s t : State} (e : Effect m s t) (h : ∀ l, s.LinkBounded l) : ∀ l, t.LinkBounded l := by
  intro l
  have ⟨fifo, bounded⟩ := h l
  cases e with
  | quiet _ ht => rw [ht]; exact h l
  | arb k a ha =>
    refine ⟨fifo, ?_⟩
    by_cases hk : k = l
    · subst hk; rw [arb_setArb]; exact ha bounded
    · rw [arb_setArb_other _ _ hk]; exact bounded
  | fifo k q hq =>
    refine ⟨?_, bounded⟩
    by_cases hk : k = l
    · subst hk; show ((s.fifos.set k q).get k).length ≤ _; rw [get_set_link]; exact hq fifo
    · show ((s.fifos.set k q).get l).length ≤ _; rw [get_set_other_link _ _ hk]; exact fifo
  | resets _ _ ht _ _ => rw [ht]; exact linkBounded_reset l
  | image t i img _ _ => exact (h l).congr (queues_onlySlots (onlySlots_putImage s t i img))
  | carry b _ _ _ _ => exact (h l).congr (queues_onlySlots (onlySlots_carry ..))
  | close n _ => exact (h l).congr (queues_closeFeed s n)
  | openFeed n rate k pages target auto ret start _ _ _ _ _ => exact (h l).congr (queues_openFeed ..)
  | retune n rate k _ _ _ _ => exact (h l).congr (queues_retune s n rate k)
  | exchange b d _ _ _ => exact (h l).congr (queues_exchangeDelay s b d)
  | bank b t _ _ _ => exact (h l).congr (queues_addBank s b t)
  | _ => exact h l

/-- Settles O55: every effect of a step keeps the bounds of the report queue, and those of each link. -/
theorem stepsKeepQueuesBounded : Obligations.StepsKeepQueuesBounded :=
  ⟨fun _ _ hs h => (step_effects h).keep (fun _ _ => effect_reportsBounded) hs,
    fun _ _ hs h => (step_effects h).keep (P := fun s => ∀ l, s.LinkBounded l) (fun _ _ => effect_linkBounded) hs⟩

/-! ### The cue queue (R91, R100) -/

theorem mem_insertCue {c d : Cue} : ∀ {q : List Cue}, d ∈ insertCue c q ↔ d = c ∨ d ∈ q
  | [] => by simp [insertCue]
  | e :: q => by
    unfold insertCue
    split
    · rw [List.mem_cons, mem_insertCue, List.mem_cons]; tauto
    · rw [List.mem_cons]

theorem length_insertCue (c : Cue) : ∀ q : List Cue, (insertCue c q).length = q.length + 1
  | [] => rfl
  | d :: q => by
    unfold insertCue
    split
    · rw [List.length_cons, length_insertCue, List.length_cons]
    · rfl

/-- A cue goes behind those that fall due no later, so the order stays (R91). -/
theorem pairwise_insertCue (c : Cue) :
    ∀ {q : List Cue}, q.Pairwise (fun d e => d.time ≤ e.time) → (insertCue c q).Pairwise fun d e => d.time ≤ e.time
  | [], _ => List.pairwise_singleton ..
  | d :: q, h => by
    obtain ⟨first, rest⟩ := List.pairwise_cons.1 h
    unfold insertCue
    split
    · rename_i hd
      refine List.pairwise_cons.2 ⟨fun e he => ?_, pairwise_insertCue c rest⟩
      rcases mem_insertCue.1 he with rfl | he
      exacts [hd, first e he]
    · rename_i hd
      have later : c.time ≤ d.time := BitVec.le_of_lt (BitVec.not_le.1 hd)
      refine List.pairwise_cons.2 ⟨fun e he => ?_, h⟩
      rcases List.mem_cons.1 he with rfl | he
      exacts [later, BitVec.le_trans later (first e he)]

/-- Only an insertion, a departure, a start, a stop and a reset touch the cue queue or the engine state. -/
theorem effect_cuesOrdered {m : Nat} {s t : State} (e : Effect m s t) (h : s.CuesOrdered) : t.CuesOrdered := by
  have ⟨count, sorted, outsideRun⟩ := h
  cases e with
  | quiet _ ht => rw [ht]; exact h
  | cues q hq =>
    exact ⟨hq.length_le.trans count, sorted.sublist hq, fun he => List.sublist_nil.1 (outsideRun he ▸ hq)⟩
  | cue c _ he hl =>
    exact ⟨(length_insertCue c s.cues).trans_le hl, pairwise_insertCue c sorted, fun hn => absurd he hn⟩
  | starts _ => exact ⟨count, sorted, fun hn => absurd rfl hn⟩
  | stops _ hc => exact ⟨count, sorted, fun _ => hc⟩
  | resets _ _ ht _ _ =>
    rw [ht]
    exact ⟨Nat.zero_le _, List.Pairwise.nil, fun _ => rfl⟩
  | image t i img _ _ => exact h.congr (queues_onlySlots (onlySlots_putImage s t i img))
  | carry b _ _ _ _ => exact h.congr (queues_onlySlots (onlySlots_carry ..))
  | close n _ => exact h.congr (queues_closeFeed s n)
  | openFeed n rate k pages target auto ret start _ _ _ _ _ => exact h.congr (queues_openFeed ..)
  | retune n rate k _ _ _ _ => exact h.congr (queues_retune s n rate k)
  | exchange b d _ _ _ => exact h.congr (queues_exchangeDelay s b d)
  | bank b t _ _ _ => exact h.congr (queues_addBank s b t)
  | _ => exact h

/-- Settles O56: every effect of a step keeps the cue queue in order. -/
theorem stepsKeepCuesOrdered : Obligations.StepsKeepCuesOrdered :=
  fun _ _ hs h => (step_effects h).keep (fun _ _ => effect_cuesOrdered) hs

end Sys2Proof.Machine

/-! PROOFS. What every step keeps, two: the bounds of each feed (R43, R46), and the agreement of the in-use counts with the feeds that
name each kernel set (R32). What an effect can do to one feed context is said once, in `Feed.Becomes`. -/

namespace Sys2Proof.Machine

/-! ### What an effect does to a feed -/

/-- A feed context as a RETUNE FEED to rate `rate` and set `k` leaves it (R69, R35). -/
def Feed.retuned (f : Feed) (rate k nom : Nat) : Feed :=
  { f with rateCode := rate, nominal := nom, kernel := k, correction := 0, integrator := 0, step := nom }

/-- The feed context `x` of feed `n` gives way to `y`: by a change in its own bounds, a close, an open or a retune of a feed that
exists, or a reset. -/
inductive Feed.Becomes (n : Nat) (x : Feed) : Feed → Prop
  | succeeds (y : Feed) (h : x.Succeeds y) : Becomes n x y
  | shut : Becomes n x x.shut
  | opened (rate k pages target : Nat) (auto : Bool) (ret : Link) (start : Option Time) (ps : List Nat) (nom : Nat)
      (hn : n < Config.feeds) : Becomes n x (.opened rate k pages target auto ret start ps nom)
  | retuned (rate k nom : Nat) : Becomes n x (x.retuned rate k nom)
  | initial : Becomes n x Feed.initial

theorem Feed.Succeeds.refl (x : Feed) : x.Succeeds x := ⟨rfl, rfl, Iff.rfl, id, id⟩

theorem feed_onlySlots {s t : State} (h : s.OnlySlots t) : t.feed = s.feed := by
  have e := congrArg State.feed h
  exact e

theorem feed_moveInUse (s : State) (old new : Nat) : (s.moveInUse old new).feed = s.feed := by
  unfold State.moveInUse
  split <;> rfl

theorem feed_retune (s : State) (n rate k g : Nat) :
    (s.retune n rate k).feed g = if n = g then (s.feed n).retuned rate k (nominalStep rate s.houseRate) else s.feed g := by
  show (State.setFeed _ n _).feed g = _
  rw [feed_setFeed, feed_moveInUse]
  rfl

theorem feed_exchangeDelay (s : State) (b d : Nat) : (s.exchangeDelay b d).feed = s.feed :=
  feed_congr (by rw [exchangeDelay_eq])

theorem feed_addBank (s : State) (b : Nat) (t : TableId) : (s.addBank b t).feed = s.feed := by cases t <;> rfl

/-- A feed context that an effect leaves as it is. -/
theorem becomes_of_eq {n : Nat} {x y : Feed} (h : y = x) : x.Becomes n y := by
  subst h; exact .succeeds y (.refl y)

theorem effect_feed {m : Nat} {s t : State} (e : Effect m s t) (n : Nat) : (s.feed n).Becomes n (t.feed n) := by
  cases e with
  | quiet _ ht => rw [ht]; exact becomes_of_eq rfl
  | feed g x hx =>
    rw [feed_setFeed]
    split
    · rename_i hg; exact .succeeds x (hg ▸ hx)
    · exact becomes_of_eq rfl
  | close g _ =>
    by_cases hg : g = n
    · subst hg; rw [feed_closeFeed_same]; exact .shut
    · exact becomes_of_eq (feed_closeFeed_other s hg)
  | openFeed g rate k pages target auto ret start _ hn _ _ _ =>
    by_cases hg : g = n
    · subst hg; rw [feed_openFeed_same]; exact .opened (hn := hn) ..
    · exact becomes_of_eq (feed_openFeed_other (h := hg) ..)
  | retune g rate k _ _ _ _ =>
    rw [feed_retune]
    split
    · rename_i hg; subst hg; exact .retuned ..
    · exact becomes_of_eq rfl
  | resets _ _ ht _ _ => rw [ht]; exact .initial
  | image t i img _ _ => exact becomes_of_eq (congrFun (feed_onlySlots (onlySlots_putImage s t i img)) n)
  | carry b _ _ _ _ => exact becomes_of_eq (congrFun (feed_onlySlots (onlySlots_carry ..)) n)
  | exchange b d _ _ _ => exact becomes_of_eq (congrFun (feed_exchangeDelay s b d) n)
  | bank b t _ _ _ => exact becomes_of_eq (congrFun (feed_addBank s b t) n)
  | _ => exact becomes_of_eq rfl

/-! ### The bounds of a feed (R38, R43, R46) -/

/-- A feed whose servo starts afresh at the nominal step is in its bounds. -/
theorem stepBounded_of_nominal {f : Feed} (hp : f.position < 16777216) (hs : f.step = f.nominal) (hc : f.correction = 0) :
    f.StepBounded := by
  refine ⟨hp, ?_, ?_, ?_⟩
  · rw [hs, hc, Int.add_zero]
  · rw [hc]; omega
  · rw [hc]; omega

theorem Feed.Becomes.stepBounded {n : Nat} {x y : Feed} (e : x.Becomes n y) (h : x.StepBounded) : y.StepBounded := by
  cases e with
  | succeeds _ hs => exact hs.step h
  | shut => exact h
  | opened => exact stepBounded_of_nominal (by decide : 0 < 16777216) rfl rfl
  | retuned => exact stepBounded_of_nominal h.1 rfl rfl
  | initial => exact stepBounded_of_nominal (by decide : 0 < 16777216) rfl rfl

theorem Feed.Becomes.bufferBounded {n : Nat} {x y : Feed} (e : x.Becomes n y) (h : x.BufferBounded) : y.BufferBounded := by
  cases e with
  | succeeds _ hs => exact hs.buffer h
  | shut => exact ⟨Nat.zero_le _, (Nat.zero_mod _).symm, fun _ => ⟨rfl, rfl⟩⟩
  | opened => exact ⟨Nat.zero_le _, (Nat.zero_mod _).symm, nofun⟩
  | retuned => exact h
  | initial => exact ⟨Nat.zero_le _, (Nat.zero_mod _).symm, fun _ => ⟨rfl, rfl⟩⟩

/-- No effect opens a feed that does not exist. -/
theorem Feed.Becomes.closed {n : Nat} {x y : Feed} (e : x.Becomes n y) (hn : Config.feeds ≤ n) (h : x.state = .closed) :
    y.state = .closed := by
  cases e with
  | succeeds _ hs => exact hs.closed.2 h
  | shut => rfl
  | opened _ _ _ _ _ _ _ _ _ hlt => exact absurd hlt (Nat.not_lt.2 hn)
  | retuned => exact h
  | initial => rfl

theorem effect_feedsBounded {m : Nat} {s t : State} (e : Effect m s t) (h : s.FeedsBounded) : t.FeedsBounded :=
  ⟨fun n => (effect_feed e n).bufferBounded (h.1 n), fun n hn => (effect_feed e n).closed hn (h.2 n hn)⟩

/-- Settles O57: whatever an effect makes of a feed keeps the feed's bounds. -/
theorem stepsKeepFeedsBounded : Obligations.StepsKeepFeedsBounded :=
  ⟨fun _ _ hs h => (step_effects h).keep (P := fun s => ∀ n, (s.feed n).StepBounded)
      (fun _ _ e hb n => (effect_feed e n).stepBounded (hb n)) hs,
    fun _ _ hs h => (step_effects h).keep (fun _ _ => effect_feedsBounded) hs⟩

/-! ### The in-use counts (R32) -/

/-- Feed `n` is open and names set `k`. -/
def State.names (s : State) (k n : Nat) : Bool := decide ((s.feed n).state ≠ .closed ∧ (s.feed n).kernel = k)

/-- Two predicates that differ at one number count the others alike. -/
theorem countP_range_of_differ {p q : Nat → Bool} {n N : Nat} (hn : n < N) (h : ∀ g, g ≠ n → p g = q g) :
    (List.range N).countP p + (q n).toNat = (List.range N).countP q + (p n).toNat := by
  have split (r : Nat → Bool) : (List.range N).countP r = (r n).toNat + ((List.range N).erase n).countP r := by
    rw [(List.perm_cons_erase (List.mem_range.2 hn)).countP_eq, List.countP_cons]
    cases r n <;> simp [Nat.add_comm]
  have others : ((List.range N).erase n).countP p = ((List.range N).erase n).countP q :=
    List.countP_congr fun g hg => by rw [h g (List.nodup_range.mem_erase_iff.1 hg).1]
  rw [split p, split q, others]
  omega

/-- The use of the kernel sets is the same: the same feeds name each set, and a READY set in use is READY still. -/
structure State.SameUse (s t : State) : Prop where
  names : t.names = s.names
  inUse : ∀ k, (t.kernel k).inUse = (s.kernel k).inUse
  ready : ∀ k, (s.kernel k).state = .ready → 0 < (s.kernel k).inUse → (t.kernel k).state = .ready

/-- Feed `n` alone has changed the set it names, and the counts have followed. -/
structure State.Renames (s : State) (n : Nat) (t : State) : Prop where
  exists_ : n < Config.feeds
  others : ∀ k g, g ≠ n → t.names k g = s.names k g
  counted : ∀ k, (t.kernel k).inUse + (s.names k n).toNat = (s.kernel k).inUse + (t.names k n).toNat
  states : ∀ k, (t.kernel k).state = (s.kernel k).state
  named : ∀ k, t.names k n = true → (s.kernel k).state = .ready

/-- What `State.KernelsCounted` says, with every feed that names a set counted. -/
structure State.UseSound (s : State) : Prop where
  exist : ∀ n, Config.feeds ≤ n → (s.feed n).state = .closed
  counted : ∀ k, (s.kernel k).inUse = (List.range Config.feeds).countP (s.names k)
  ready : ∀ k n, s.names k n = true → (s.kernel k).state = .ready

section
variable {s t : State} {n k : Nat}

theorem names_iff : s.names k n = true ↔ (s.feed n).state ≠ .closed ∧ (s.feed n).kernel = k := decide_eq_true_iff

theorem State.UseSound.of_counted (hf : s.FeedsBounded) (h : s.KernelsCounted) : s.UseSound :=
  ⟨hf.2, h.1, fun _ n hn => (names_iff.1 hn).2 ▸ h.2 n (names_iff.1 hn).1⟩

theorem State.UseSound.kernelsCounted (h : s.UseSound) : s.KernelsCounted :=
  ⟨h.counted, fun _ hn => h.ready _ _ (names_iff.2 ⟨hn, rfl⟩)⟩

theorem State.UseSound.lt_of_open (h : s.UseSound) (hn : (s.feed n).state ≠ .closed) : n < Config.feeds :=
  Nat.lt_of_not_le fun hle => hn (h.exist n hle)

/-- A set that an open feed names is in use. -/
theorem State.UseSound.inUse_pos (h : s.UseSound) (hn : s.names k n = true) : 0 < (s.kernel k).inUse := by
  rw [h.counted, List.countP_pos_iff]
  exact ⟨n, List.mem_range.2 (h.lt_of_open (names_iff.1 hn).1), hn⟩

theorem State.UseSound.same (h : s.UseSound) (exist : ∀ n, Config.feeds ≤ n → (t.feed n).state = .closed) (e : s.SameUse t) :
    t.UseSound := by
  refine ⟨exist, fun k => ?_, fun k n hn => ?_⟩
  · rw [e.inUse, e.names, h.counted]
  · rw [e.names] at hn
    exact e.ready k (h.ready k n hn) (h.inUse_pos hn)

theorem State.UseSound.rename (h : s.UseSound) (exist : ∀ n, Config.feeds ≤ n → (t.feed n).state = .closed) (e : s.Renames n t) :
    t.UseSound := by
  refine ⟨exist, fun k => ?_, fun k g hg => ?_⟩
  · have counts := countP_range_of_differ e.exists_ (e.others k)
    have inUse := e.counted k
    rw [h.counted] at inUse
    omega
  · rw [e.states]
    by_cases hgn : g = n
    · subst hgn; exact e.named k hg
    · rw [e.others k g hgn] at hg; exact h.ready k g hg

/-- Where the feeds and kernel sets are left, so is their use. -/
theorem sameUse_of_stores (hf : t.feed = s.feed) (hk : t.kernel = s.kernel) : s.SameUse t :=
  ⟨by unfold State.names; rw [hf], fun k => by rw [hk], fun k hr _ => by rw [hk]; exact hr⟩

theorem sameUse_onlySlots (h : s.OnlySlots t) : s.SameUse t := by
  have e := congrArg State.kernel h
  exact sameUse_of_stores (feed_onlySlots h) e

theorem sameUse_setFeed {x : Feed} (h : (s.feed n).Succeeds x) : s.SameUse (s.setFeed n x) := by
  refine ⟨?_, fun _ => rfl, fun _ hr _ => hr⟩
  funext k g
  unfold State.names
  rw [feed_setFeed]
  split
  · rename_i hg; subst hg; simp only [ne_eq, h.closed, h.kernel]
  · rfl

theorem sameUse_setKernel {x : KernelSet} (hi : x.inUse = (s.kernel k).inUse)
    (hr : (s.kernel k).state = .ready → 0 < (s.kernel k).inUse → x.state = .ready) : s.SameUse (s.setKernel k x) := by
  refine ⟨rfl, fun j => ?_, fun j => ?_⟩ <;> rw [kernel_setKernel] <;> split
  · rename_i hj; rw [hi, hj]
  · rfl
  · rename_i hj; subst hj; exact hr
  · exact fun hr _ => hr

end

/-- A CLOSED feed names no set. -/
theorem names_of_closed {s : State} {n : Nat} (h : (s.feed n).state = .closed) (k : Nat) : s.names k n = false := by
  simp [State.names, h]

/-- An open feed names its own set alone. -/
theorem names_of_open {s : State} {n : Nat} (h : (s.feed n).state ≠ .closed) (k : Nat) :
    s.names k n = decide ((s.feed n).kernel = k) := by
  simp [State.names, h]

theorem names_congr {s t : State} {n : Nat} (h : t.feed n = s.feed n) (k : Nat) : t.names k n = s.names k n := by
  unfold State.names; rw [h]

theorem renames_closeFeed {s : State} {n : Nat} (h : s.UseSound) (hn : (s.feed n).state ≠ .closed) :
    s.Renames n (s.closeFeed n) := by
  have shut (k : Nat) : (s.closeFeed n).names k n = false := names_of_closed (by rw [feed_closeFeed_same]; rfl) k
  refine ⟨h.lt_of_open hn, fun k g hg => names_congr (feed_closeFeed_other s (Ne.symm hg)) k, fun k => ?_, fun k => ?_, fun k hk => ?_⟩
  · rw [kernel_closeFeed, shut, names_of_open hn]
    by_cases hk : k = (s.feed n).kernel
    · have := h.inUse_pos (names_iff.2 ⟨hn, hk.symm⟩)
      rw [if_pos hk, decide_eq_true hk.symm]
      show (s.kernel k).inUse - 1 + 1 = _
      rw [Nat.sub_add_cancel this]; rfl
    · rw [if_neg hk, decide_eq_false (Ne.symm hk)]
  · rw [kernel_closeFeed]; split <;> rfl
  · rw [shut] at hk; cases hk

theorem renames_openFeed {s : State} {n k : Nat} (hn : n < Config.feeds) (hc : (s.feed n).state = .closed)
    (hk : (s.kernel k).state = .ready) (rate pages target : Nat) (auto : Bool) (ret : Link) (start : Option Time) :
    s.Renames n (s.openFeed n rate k pages target auto ret start) := by
  have names (j : Nat) : (s.openFeed n rate k pages target auto ret start).names j n = decide (k = j) := by
    rw [names_of_open (by rw [feed_openFeed_same]; nofun), feed_openFeed_same]; rfl
  refine ⟨hn, fun j g hg => names_congr (feed_openFeed_other (h := Ne.symm hg) ..) j, fun j => ?_, fun j => ?_, fun j hj => ?_⟩
  · rw [kernel_openFeed, names, names_of_closed hc]
    by_cases hjk : j = k
    · subst hjk; rw [if_pos rfl, decide_eq_true rfl]; rfl
    · rw [if_neg hjk, decide_eq_false (Ne.symm hjk)]
  · rw [kernel_openFeed]
    split
    · rename_i hjk; rw [hjk]
    · rfl
  · rw [names, decide_eq_true_iff] at hj
    rw [← hj]; exact hk

/-- The in-use counts after a RETUNE FEED that names another set (R32). -/
theorem kernel_moveInUse {s : State} {old new : Nat} (h : old ≠ new) (k : Nat) :
    (s.moveInUse old new).kernel k =
      if k = new then { s.kernel new with inUse := (s.kernel new).inUse + 1 }
      else if k = old then { s.kernel old with inUse := (s.kernel old).inUse - 1 } else s.kernel k := by
  rw [State.moveInUse, if_neg h, State.raiseInUse, State.lowerInUse, kernel_setKernel]
  by_cases hn : k = new
  · rw [if_pos hn.symm, if_pos hn, kernel_setKernel, if_neg h]
  · rw [if_neg (Ne.symm hn), if_neg hn, kernel_setKernel]
    exact if_congr eq_comm rfl rfl

theorem kernel_retune (s : State) (n rate k : Nat) :
    (s.retune n rate k).kernel = (s.moveInUse (s.feed n).kernel k).kernel := rfl

theorem renames_retune {s : State} {n k : Nat} (h : s.UseSound) (hn : (s.feed n).state ≠ .closed)
    (hk : k = (s.feed n).kernel ∨ (s.kernel k).state = .ready) (rate : Nat) : s.Renames n (s.retune n rate k) := by
  have own : s.names (s.feed n).kernel n = true := names_iff.2 ⟨hn, rfl⟩
  have retuned : (s.retune n rate k).feed n = (s.feed n).retuned rate k (nominalStep rate s.houseRate) := by
    rw [feed_retune, if_pos rfl]
  have names (j : Nat) : (s.retune n rate k).names j n = decide (k = j) := by
    rw [names_of_open (by rw [retuned]; exact hn), retuned]; rfl
  have readyNew : (s.kernel k).state = .ready := hk.elim (fun e => e ▸ h.ready _ _ own) id
  have others (j g : Nat) (hg : g ≠ n) : (s.retune n rate k).names j g = s.names j g :=
    names_congr (by rw [feed_retune, if_neg (Ne.symm hg)]) j
  refine ⟨h.lt_of_open hn, others, fun j => ?_, fun j => ?_, fun j hj => ?_⟩
  · rw [kernel_retune, names, names_of_open hn]
    by_cases same : (s.feed n).kernel = k
    · rw [State.moveInUse, if_pos same, same]
    · rw [kernel_moveInUse same]
      by_cases hjk : j = k
      · subst hjk; rw [if_pos rfl, decide_eq_false same, decide_eq_true rfl]; rfl
      · rw [if_neg hjk, decide_eq_false (Ne.symm hjk)]
        by_cases hjo : j = (s.feed n).kernel
        · have := h.inUse_pos own
          rw [if_pos hjo, decide_eq_true hjo.symm, hjo]
          show (s.kernel (s.feed n).kernel).inUse - 1 + 1 = _
          rw [Nat.sub_add_cancel this]; rfl
        · rw [if_neg hjo, decide_eq_false (Ne.symm hjo)]
  · rw [kernel_retune]
    by_cases same : (s.feed n).kernel = k
    · rw [State.moveInUse, if_pos same]
    · rw [kernel_moveInUse same]
      split
      · rename_i hjk; rw [hjk]
      · split
        · rename_i hjo; rw [hjo]
        · rfl
  · rw [names, decide_eq_true_iff] at hj
    rw [← hj]; exact readyNew

theorem useSound_reset : State.reset.UseSound :=
  ⟨fun _ _ => rfl,
    fun k => (inUse_kernel_reset k).trans
      (List.countP_eq_zero.2 fun n _ => by rw [names_of_closed (show (State.reset.feed n).state = .closed from rfl)]; nofun).symm,
    fun k n hn => absurd (names_iff.1 hn).1 (not_not.2 rfl)⟩

/-- Only a close, an open, a retune and a reset change which feeds name a set; the first three move the counts with it. -/
theorem effect_useSound {m : Nat} {s t : State} (e : Effect m s t) (h : s.UseSound) : t.UseSound := by
  have exist (n : Nat) (hn : Config.feeds ≤ n) : (t.feed n).state = .closed := (effect_feed e n).closed hn (h.exist n hn)
  cases e with
  | quiet _ ht => exact h.same exist (sameUse_of_stores (feed_congr (by rw [ht])) (kernel_congr (by rw [ht])))
  | feed n x hx => exact h.same exist (sameUse_setFeed hx)
  | kernel k x hi hr => exact h.same exist (sameUse_setKernel hi hr)
  | close n hn => exact h.rename exist (renames_closeFeed h hn)
  | openFeed n rate k pages target auto ret start _ hn hc hk _ => exact h.rename exist (renames_openFeed hn hc hk ..)
  | retune n rate k _ _ hc hk => exact h.rename exist (renames_retune h hc hk rate)
  | resets _ _ ht _ _ =>
    have e := congrArg State.kernel ht
    exact useSound_reset.same exist (sameUse_of_stores (by rw [ht]; rfl) e)
  | image t i img _ _ => exact h.same exist (sameUse_onlySlots (onlySlots_putImage s t i img))
  | carry b _ _ _ _ => exact h.same exist (sameUse_onlySlots (onlySlots_carry ..))
  | exchange b d _ _ _ =>
    exact h.same exist (sameUse_of_stores (feed_exchangeDelay s b d) (kernel_congr (by rw [exchangeDelay_eq])))
  | bank b t _ _ _ => exact h.same exist (sameUse_of_stores (feed_addBank s b t) (by cases t <;> rfl))
  | _ => exact h.same exist (sameUse_of_stores rfl rfl)

/-- Settles O59: with its companion premise the statement's count is `State.UseSound`, which every effect of a step keeps. -/
theorem stepsKeepKernelsCounted : Obligations.StepsKeepKernelsCounted :=
  fun _ _ hf hs h => ((step_effects h).keep (fun _ _ => effect_useSound) (.of_counted hf hs)).kernelsCounted

end Sys2Proof.Machine

/-! PROOFS. What every step keeps, three: the two tables (R118, R124, R125). A table is seen as a function of its index, so that each
write is one change of that function; what a write then keeps is shown of the function alone. -/

namespace Sys2Proof.Machine

/-! ### Tables as functions of their index -/

/-- Contents `e` of an admission table of `N` slots are whole (R124). -/
def RulesOn (N : Nat) (e : Nat → Slot) : Prop :=
  ∀ i, i < N →
    (∀ r, e i = .wideHead r → i % 2 = 0 ∧ ∃ w, e (i + 1) = .continuation w) ∧
    (∀ w, e i = .continuation w → i % 2 = 1 ∧ ∃ r, e (i - 1) = .wideHead r) ∧ ∀ r, e i ≠ .route r

/-- Contents `e` of a route table of `N` slots are distinct (R125). -/
def RoutesOn (N : Nat) (e : Nat → Slot) : Prop :=
  (∀ i, i < N → e i = .empty ∨ ∃ r, e i = .route r) ∧
    ∀ i j r q, i < N → j < N → e i = .route r → e j = .route q → r.feed = q.feed → r.bus = q.bus → i = j

/-- `e` with the slots of `is` made EMPTY. -/
def clearedAt (e : Nat → Slot) (is : List Nat) (j : Nat) : Slot := if j ∈ is then .empty else e j

theorem routeAt_iff {s : State} {i : Nat} {r : Route} : s.routeAt i = some r ↔ s.entry .route i = .route r := by
  unfold State.routeAt
  cases s.entry .route i <;> simp

theorem rulesWhole_iff {s : State} : s.RulesWhole ↔ RulesOn (s.tableSize .admission) (s.entry .admission) := Iff.rfl

theorem routesDistinct_iff {s : State} : s.RoutesDistinct ↔ RoutesOn (s.tableSize .route) (s.entry .route) := by
  unfold State.RoutesDistinct
  simp only [routeAt_iff]
  rfl

section
variable {N : Nat} {e e' : Nat → Slot}

/-- A head below the top of a table of even size has its continuation inside the table. -/
theorem RulesOn.congr (hN : N % 2 = 0) (h : RulesOn N e) (he : ∀ i, i < N → e' i = e i) : RulesOn N e' := by
  intro i hi
  obtain ⟨head, continuation, noRoute⟩ := h i hi
  rw [he i hi]
  refine ⟨fun r hr => ?_, fun w hw => ?_, noRoute⟩
  · obtain ⟨even, w, hw⟩ := head r hr
    exact ⟨even, w, (he (i + 1) (by omega)).trans hw⟩
  · obtain ⟨odd, r, hr⟩ := continuation w hw
    exact ⟨odd, r, (he (i - 1) (by omega)).trans hr⟩

/-- Slots that split no wide rule may be emptied. -/
theorem RulesOn.clear (h : RulesOn N e) {is : List Nat}
    (whole : ∀ k r, k < N → e k = .wideHead r → (k ∈ is ↔ k + 1 ∈ is)) : RulesOn N (clearedAt e is) := by
  intro i hi
  obtain ⟨head, continuation, noRoute⟩ := h i hi
  by_cases hm : i ∈ is
  · simp [clearedAt, hm]
  · refine ⟨fun r hr => ?_, fun w hw => ?_, fun r => ?_⟩
    · rw [clearedAt, if_neg hm] at hr
      obtain ⟨even, w, hw⟩ := head r hr
      exact ⟨even, w, by rw [clearedAt, if_neg (mt (whole i r hi hr).2 hm), hw]⟩
    · rw [clearedAt, if_neg hm] at hw
      obtain ⟨odd, r, hr⟩ := continuation w hw
      have split := whole (i - 1) r (by omega) hr
      rw [show i - 1 + 1 = i by omega] at split
      exact ⟨odd, r, by rw [clearedAt, if_neg (mt split.1 hm), hr]⟩
    · rw [clearedAt, if_neg hm]; exact noRoute r

/-- A narrow rule may be put into an EMPTY slot. -/
theorem RulesOn.placeNarrow (h : RulesOn N e) {d : Nat} (hd : e d = .empty) (r : Rule) :
    RulesOn N (Function.update e d (.narrow r)) := by
  intro i hi
  obtain ⟨head, continuation, noRoute⟩ := h i hi
  by_cases hid : i = d
  · subst hid; simp
  · rw [Function.update_of_ne hid]
    refine ⟨fun r hr => ?_, fun w hw => ?_, noRoute⟩
    · obtain ⟨even, w, hw⟩ := head r hr
      exact ⟨even, w, by rw [Function.update_of_ne (fun e => by rw [e, hd] at hw; cases hw), hw]⟩
    · obtain ⟨odd, r, hr⟩ := continuation w hw
      exact ⟨odd, r, by rw [Function.update_of_ne (fun e => by rw [e, hd] at hr; cases hr), hr]⟩

/-- `e` with a wide rule at `d`. -/
def withWide (e : Nat → Slot) (d : Nat) (r : Rule) (w : WideKey) : Nat → Slot :=
  Function.update (Function.update e d (.wideHead r)) (d + 1) (.continuation w)

theorem withWide_head (e : Nat → Slot) (d : Nat) (r : Rule) (w : WideKey) : withWide e d r w d = .wideHead r := by
  rw [withWide, Function.update_of_ne (by omega), Function.update_self]

theorem withWide_continuation (e : Nat → Slot) (d : Nat) (r : Rule) (w : WideKey) :
    withWide e d r w (d + 1) = .continuation w := Function.update_self ..

theorem withWide_of_ne (e : Nat → Slot) {d i : Nat} (r : Rule) (w : WideKey) (h : i ≠ d) (h' : i ≠ d + 1) :
    withWide e d r w i = e i := by
  rw [withWide, Function.update_of_ne h', Function.update_of_ne h]

/-- A wide rule may be put into two EMPTY slots, the lower of an even index. -/
theorem RulesOn.placeWide (h : RulesOn N e) {d : Nat} (even : d % 2 = 0) (hd : e d = .empty) (hd' : e (d + 1) = .empty) (r : Rule)
    (w : WideKey) : RulesOn N (withWide e d r w) := by
  have apart {x : Slot} {j : Nat} (hj : e j = x) (hx : x ≠ .empty) : withWide e d r w j = x := by
    rw [withWide_of_ne e r w, hj]
    · rintro rfl; exact hx (hj.symm.trans hd)
    · rintro rfl; exact hx (hj.symm.trans hd')
  intro i hi
  obtain ⟨head, continuation, noRoute⟩ := h i hi
  by_cases hid : i = d
  · subst hid
    rw [withWide_head]
    exact ⟨fun _ _ => ⟨even, w, withWide_continuation ..⟩, nofun, nofun⟩
  by_cases hid' : i = d + 1
  · subst hid'
    rw [withWide_continuation]
    exact ⟨nofun, fun _ _ => ⟨by omega, r, withWide_head ..⟩, nofun⟩
  rw [withWide_of_ne e r w hid hid']
  refine ⟨fun q hq => ?_, fun v hv => ?_, noRoute⟩
  · obtain ⟨even, v, hv⟩ := head q hq
    exact ⟨even, v, apart hv nofun⟩
  · obtain ⟨odd, q, hq⟩ := continuation v hv
    exact ⟨odd, q, apart hq nofun⟩

theorem RoutesOn.congr (h : RoutesOn N e) (he : ∀ i, i < N → e' i = e i) : RoutesOn N e' :=
  ⟨fun i hi => he i hi ▸ h.1 i hi,
    fun i j r q hi hj hr hq => h.2 i j r q hi hj ((he i hi).symm.trans hr) ((he j hj).symm.trans hq)⟩

theorem clearedAt_eq_route {is : List Nat} {i : Nat} {r : Route} (h : clearedAt e is i = .route r) : i ∉ is ∧ e i = .route r := by
  unfold clearedAt at h
  split at h
  · cases h
  · exact ⟨‹_›, h⟩

theorem RoutesOn.clear (h : RoutesOn N e) (is : List Nat) : RoutesOn N (clearedAt e is) := by
  refine ⟨fun i hi => ?_, fun i j r q hi hj hr hq => ?_⟩
  · unfold clearedAt
    split
    · exact .inl rfl
    · exact h.1 i hi
  · exact h.2 i j r q hi hj (clearedAt_eq_route hr).2 (clearedAt_eq_route hq).2

/-- A route that no other slot duplicates may be put into any slot. -/
theorem RoutesOn.place (h : RoutesOn N e) {d : Nat} {x : Route}
    (new : ∀ i r, i < N → i ≠ d → e i = .route r → r.feed = x.feed → r.bus = x.bus → False) :
    RoutesOn N (Function.update e d (.route x)) := by
  refine ⟨fun i hi => ?_, fun i j r q hi hj hr hq hf hb => ?_⟩
  · by_cases hid : i = d
    · subst hid; exact .inr ⟨x, Function.update_self ..⟩
    · rw [Function.update_of_ne hid]; exact h.1 i hi
  · by_cases hid : i = d <;> by_cases hjd : j = d
    · rw [hid, hjd]
    · rw [hid, Function.update_self] at hr
      rw [Function.update_of_ne hjd] at hq
      cases hr
      exact (new j q hj hjd hq hf.symm hb.symm).elim
    · rw [hjd, Function.update_self] at hq
      rw [Function.update_of_ne hid] at hr
      cases hq
      exact (new i r hi hid hr hf hb).elim
    · rw [Function.update_of_ne hid] at hr
      rw [Function.update_of_ne hjd] at hq
      exact h.2 i j r q hi hj hr hq hf hb

end

/-! ### Writes to a table -/

/-- In `v`, table `t` holds `e` where `s` had its own entries; banks, the other table and the block context are as in `s`. -/
structure State.Rewrites (s : State) (t : TableId) (e : Nat → Slot) (v : State) : Prop where
  banks : v.BanksApart
  size : ∀ u, v.tableSize u = s.tableSize u
  entry : ∀ j, j < s.tableSize t → v.entry t j = e j
  other : ∀ u j, u ≠ t → j < s.tableSize u → v.entry u j = s.entry u j
  block : v.block = s.block

/-- What a block operation has checked stays checked where no table shrinks. -/
theorem blockSound_mono {s v : State} {b : Block} (h : s.BlockSound b) (hs : ∀ u, s.tableSize u ≤ v.tableSize u) : v.BlockSound b := by
  obtain ⟨left, range, place, count, move, others⟩ := h
  refine ⟨left, range.trans (hs _), place, count, fun hk => ?_, others⟩
  obtain ⟨low, high, rest⟩ := move hk
  exact ⟨low, high.trans (Int.ofNat_le.2 (hs _)), rest⟩

namespace State.Rewrites

variable {s v : State} {t : TableId} {e : Nat → Slot}

theorem refl (h : s.BanksApart) (t : TableId) : s.Rewrites t (s.entry t) s :=
  ⟨h, fun _ => rfl, fun _ _ => rfl, fun _ _ _ _ => rfl, rfl⟩

theorem set (h : s.Rewrites t e v) {i : Nat} (hi : i < s.tableSize t) (x : Slot) :
    s.Rewrites t (Function.update e i x) (v.setEntry t i x) := by
  have hiv : i < v.tableSize t := by rw [h.size]; exact hi
  refine ⟨banksApart_setEntry v h.banks t x hiv, fun u => (tableSize_setEntry ..).trans (h.size u), fun j hj => ?_,
    fun u j hu hj => ?_, h.block⟩
  · rw [entry_setEntry v h.banks.1 x hiv (by rw [h.size]; exact hj)]
    by_cases hij : i = j
    · subst hij; rw [if_pos ⟨rfl, rfl⟩, Function.update_self]
    · rw [if_neg (fun c => hij c.2), Function.update_of_ne (Ne.symm hij), h.entry j hj]
  · rw [entry_setEntry v h.banks.1 x hiv (by rw [h.size]; exact hj), if_neg (fun c => hu c.1.symm), h.other u j hu hj]

theorem clear (h : s.Rewrites t e v) {is : List Nat} (hi : ∀ i ∈ is, i < s.tableSize t) :
    s.Rewrites t (clearedAt e is) (v.emptySlots t is) := by
  obtain ⟨banks, entries⟩ := entry_emptySlots t is v h.banks fun i m => by rw [h.size]; exact hi i m
  have sizes (u : TableId) : (v.emptySlots t is).tableSize u = v.tableSize u := by
    have same := onlySlots_emptySlots v t is
    unfold State.OnlySlots at same
    rw [same]
    cases u <;> rfl
  refine ⟨banks, fun u => (sizes u).trans (h.size u), fun j hj => ?_, fun u j hu hj => ?_,
    (block_onlySlots (onlySlots_emptySlots v t is)).trans h.block⟩
  · rw [entries t j (by rw [h.size]; exact hj), h.entry j hj]
    unfold clearedAt
    by_cases hm : j ∈ is <;> simp [hm]
  · rw [entries u j (by rw [h.size]; exact hj), if_neg (fun c => hu c.1.symm), h.other u j hu hj]

theorem blockSound (h : s.Rewrites t e v) (hb : ∀ b, s.block = some b → s.BlockSound b) : ∀ b, v.block = some b → v.BlockSound b :=
  fun b e => blockSound_mono (hb b (h.block ▸ e)) fun u => (h.size u).ge

/-- Rewriting the admission table leaves the tables whole if the new contents are whole. -/
theorem admission (h : s.Rewrites .admission e v) (hs : s.TablesWhole) (he : RulesOn (s.tableSize .admission) e) :
    v.TablesWhole := by
  obtain ⟨-, -, routes, block⟩ := hs
  refine ⟨h.banks, ?_, ?_, h.blockSound block⟩
  · rw [rulesWhole_iff, h.size]
    exact he.congr (tableSize_even s _) h.entry
  · rw [routesDistinct_iff, h.size]
    exact (routesDistinct_iff.1 routes).congr fun i hi => h.other .route i nofun hi

/-- Rewriting the route table leaves the tables whole if the new contents are distinct. -/
theorem route (h : s.Rewrites .route e v) (hs : s.TablesWhole) (he : RoutesOn (s.tableSize .route) e) : v.TablesWhole := by
  obtain ⟨-, rules, -, block⟩ := hs
  refine ⟨h.banks, ?_, ?_, h.blockSound block⟩
  · rw [rulesWhole_iff, h.size]
    exact (rulesWhole_iff.1 rules).congr (tableSize_even s _) fun i hi => h.other .admission i nofun hi
  · rw [routesDistinct_iff, h.size]
    exact he.congr h.entry

end State.Rewrites

/-! ### An image written (R123 to R125) -/

section
variable {s : State} {i : Nat} {img : Image}

theorem mem_ruleSlots_self (h : s.RulesWhole) {j : Nat} (hj : j < s.tableSize .admission) : j ∈ s.ruleSlots j := by
  obtain ⟨k, r, w, hjk, -, -, -, -, slots, -⟩ | ⟨r, -, slots, -⟩ | ⟨-, slots, -⟩ := rule_cases s h hj
  · rw [slots]; rcases hjk with rfl | rfl <;> simp
  · rw [slots]; simp
  · rw [slots]; simp

/-- The slots of a rule lie in the table. -/
theorem ruleSlots_lt (h : s.RulesWhole) {j k : Nat} (hj : j < s.tableSize .admission) (hk : k ∈ s.ruleSlots j) :
    k < s.tableSize .admission := by
  obtain ⟨m, r, w, -, -, hm, -, -, slots, -⟩ | ⟨r, -, slots, -⟩ | ⟨-, slots, -⟩ := rule_cases s h hj <;>
    rw [slots] at hk <;> simp only [List.mem_cons, List.not_mem_nil, or_false] at hk <;> omega

/-- A head and its continuation are held by the same slots. -/
theorem head_mem_ruleSlots_iff (h : s.RulesWhole) {j k : Nat} (hj : j < s.tableSize .admission)
    (hk : k < s.tableSize .admission) {r : Rule} (hr : s.entry .admission k = .wideHead r) :
    k ∈ s.ruleSlots j ↔ k + 1 ∈ s.ruleSlots j := by
  obtain ⟨even, w, hw⟩ := (h k hk).1 r hr
  obtain ⟨m, q, v, -, meven, -, -, -, slots, -⟩ | ⟨q, hq, slots, -⟩ | ⟨he, slots, -⟩ := rule_cases s h hj <;> rw [slots]
  · simp only [List.mem_cons, List.not_mem_nil, or_false]; omega
  · simp only [List.mem_singleton]
    constructor
    · rintro rfl; rw [hr] at hq; cases hq
    · rintro rfl; rw [hw] at hq; cases hq
  · simp only [List.mem_singleton]
    constructor
    · rintro rfl; rw [hr] at he; cases he
    · rintro rfl; rw [hw] at he; cases he

/-- The slots an image covers lie in the table. -/
theorem covers_lt {t : TableId} (good : s.ImageGood t i img) : ∀ j ∈ img.covers i, j < s.tableSize t := by
  obtain ⟨hi, -, even, -⟩ := good
  intro j hj
  unfold Image.covers at hj
  split at hj
  · have := even ‹_›
    have := tableSize_even s t
    simp only [List.mem_cons, List.not_mem_nil, or_false] at hj
    omega
  · rw [List.mem_singleton.1 hj]; exact hi

theorem touched_admission_iff (h : s.RulesWhole) (good : s.ImageGood .admission i img) (j : Nat) :
    j ∈ s.touched .admission i img ↔ ∃ c ∈ img.covers i, j ∈ s.ruleSlots c := by
  unfold State.touched
  rw [List.mem_append, List.mem_flatMap]
  exact or_iff_right_of_imp fun hj => ⟨j, hj, mem_ruleSlots_self h (covers_lt good j hj)⟩

theorem touched_lt (h : s.RulesWhole) {t : TableId} (good : s.ImageGood t i img) : ∀ j ∈ s.touched t i img, j < s.tableSize t := by
  intro j hj
  cases t with
  | route => rw [List.mem_singleton.1 hj]; exact good.1
  | admission =>
    obtain ⟨c, hc, hj⟩ := (touched_admission_iff h good j).1 hj
    exact ruleSlots_lt h (covers_lt good c hc) hj

/-- An image removes whole every rule that it touches. -/
theorem rulesOn_touched (h : s.RulesWhole) (good : s.ImageGood .admission i img) :
    RulesOn (s.tableSize .admission) (clearedAt (s.entry .admission) (s.touched .admission i img)) := by
  refine RulesOn.clear h fun k r hk hr => ?_
  rw [touched_admission_iff h good, touched_admission_iff h good]
  exact exists_congr fun c => and_congr_right fun hc => head_mem_ruleSlots_iff h (covers_lt good c hc) hk hr

theorem clearedAt_mem {e : Nat → Slot} {is : List Nat} {j : Nat} (h : j ∈ is) : clearedAt e is j = .empty := if_pos h

theorem mem_touched_of_covers {t : TableId} {j : Nat} (hf : img.fits t = true) (h : j ∈ img.covers i) : j ∈ s.touched t i img := by
  cases t with
  | admission => exact List.mem_append_left _ h
  | route =>
    cases img with
    | wide => simp [Image.fits] at hf
    | _ => exact h

/-- No ACTIVE route carries a good image's feed and bus (R125). -/
theorem not_joined {f b g : Nat} {p : Polarity} (good : s.ImageGood .route i (.route f b p g)) {j : Nat} {r : Route}
    (hj : j < s.tableSize .route) (hr : s.entry .route j = .route r) (hf : r.feed = f) (hb : r.bus = b) : False := by
  obtain ⟨-, -, -, dup⟩ := good
  refine Bool.false_ne_true (dup.symm.trans ?_)
  show s.routeJoins f b = true
  rw [State.routeJoins, List.any_eq_true]
  exact ⟨j, List.mem_range.2 hj, by rw [routeAt_iff.2 hr]; exact decide_eq_true ⟨hf, hb⟩⟩

theorem putImage_tablesWhole (hs : s.TablesWhole) {t : TableId} (good : s.ImageGood t i img) : (s.putImage t i img).TablesWhole := by
  have ⟨banks, rules, routes, block⟩ := hs
  have ⟨hi, fits, even, _⟩ := good
  have cleared := (State.Rewrites.refl banks t).clear (touched_lt rules good)
  have covered {j : Nat} (hj : j ∈ img.covers i) : clearedAt (s.entry t) (s.touched t i img) j = .empty :=
    clearedAt_mem (mem_touched_of_covers fits hj)
  cases img with
  | empty =>
    cases t with
    | admission => exact cleared.admission hs (rulesOn_touched rules good)
    | route => exact cleared.route hs ((routesDistinct_iff.1 routes).clear _)
  | narrow act k v f =>
    obtain rfl : t = .admission := of_decide_eq_true fits
    exact (cleared.set hi _).admission hs ((rulesOn_touched rules good).placeNarrow (covered (List.mem_singleton.2 rfl)) _)
  | wide act k w v f =>
    obtain rfl : t = .admission := of_decide_eq_true fits
    have above : i + 1 < s.tableSize .admission := covers_lt good (i + 1) (by simp [Image.covers, Image.isWide])
    refine ((cleared.set hi _).set above _).admission hs ?_
    exact (rulesOn_touched rules good).placeWide (even rfl) (covered (by simp [Image.covers, Image.isWide]))
      (covered (by simp [Image.covers, Image.isWide])) _ _
  | route f b p g =>
    obtain rfl : t = .route := of_decide_eq_true fits
    refine (cleared.set hi _).route hs (((routesDistinct_iff.1 routes).clear _).place fun j r hj _ hr hf hb => ?_)
    exact not_joined good hj (clearedAt_eq_route hr).2 hf hb

end

/-! ### An entry carried by a MOVE (R132) -/

section
variable {s : State} {b : Block}

/-- The next index of a MOVE lies in its table, and so does its destination. -/
theorem next_lt (h : s.BlockSound b) (hk : b.kind = .move) :
    b.next < s.tableSize b.table ∧ 0 ≤ (b.next : Int) + b.offset ∧ (b.next : Int) + b.offset < s.tableSize b.table := by
  obtain ⟨left, range, place, count, move, -⟩ := h
  obtain ⟨low, high, -, -⟩ := move hk
  split at place <;> omega

theorem shifted_eq {o : Int} {i : Nat} (h : 0 ≤ (i : Int) + o) : (shifted o i : Int) = i + o := Int.toNat_of_nonneg h

/-- A single slot carried to an EMPTY one. -/
theorem rewrites_carry_one (h : s.BanksApart) {t : TableId} {o : Int} {q : Nat} (hq : q < s.tableSize t)
    (hd : shifted o q < s.tableSize t) :
    s.Rewrites t (Function.update (Function.update (s.entry t) (shifted o q) (s.entry t q)) q .empty) (s.carry t o [q]) :=
  ((State.Rewrites.refl h t).set hd _).set hq _

/-- The source of a single slot carried is EMPTY after it. -/
theorem update_empty (e : Nat → Slot) (q : Nat) : Function.update e q .empty = clearedAt e [q] := by
  funext j
  unfold clearedAt
  by_cases h : j = q
  · subst h; simp
  · simp [h]

theorem carry_route_tablesWhole (hs : s.TablesWhole) {o : Int} {q : Nat} (hq : q < s.tableSize .route)
    (hd : shifted o q < s.tableSize .route) {r : Route} (hr : s.entry .route q = .route r) : (s.carry .route o [q]).TablesWhole := by
  have ⟨banks, rules, routes, block⟩ := hs
  have distinct := routesDistinct_iff.1 routes
  refine (rewrites_carry_one banks hq hd).route hs ?_
  by_cases hqd : q = shifted o q
  · refine ((distinct.clear [q]).congr fun j _ => ?_)
    rw [← hqd, Function.update_eq_self, update_empty]
  · rw [hr, Function.update_comm (Ne.symm hqd), update_empty]
    refine (distinct.clear [q]).place fun j x hj _ hx hf hb => ?_
    obtain ⟨hjq, hx⟩ := clearedAt_eq_route hx
    exact hjq (List.mem_singleton.2 (distinct.2 j q x r hj hq hx hr hf hb))

theorem carry_narrow_tablesWhole (hs : s.TablesWhole) {o : Int} {q : Nat} (hq : q < s.tableSize .admission)
    (hd : shifted o q < s.tableSize .admission) (hfree : s.entry .admission (shifted o q) = .empty) {r : Rule}
    (hr : s.entry .admission q = .narrow r) : (s.carry .admission o [q]).TablesWhole := by
  have ⟨banks, rules, routes, block⟩ := hs
  refine (rewrites_carry_one banks hq hd).admission hs ?_
  rw [hr, update_empty]
  refine ((rulesWhole_iff.1 rules).placeNarrow hfree r).clear fun k x hk hx => ?_
  have hne : k ≠ shifted o q := by rintro rfl; rw [Function.update_self] at hx; cases hx
  rw [Function.update_of_ne hne] at hx
  obtain ⟨-, w, hw⟩ := (rules k hk).1 x hx
  simp only [List.mem_singleton]
  constructor
  · rintro rfl; rw [hr] at hx; cases hx
  · rintro rfl; rw [hr] at hw; cases hw

/-- A wide rule carried, slot by slot: its two source slots are EMPTY and its two destination slots hold it. -/
theorem rewrites_carry_two (h : s.BanksApart) {o : Int} {k : Nat} (hk : k + 1 < s.tableSize .admission)
    (hd : shifted o k + 1 < s.tableSize .admission) (next : shifted o (k + 1) = shifted o k + 1) (apart : shifted o k + 1 < k ∨ k + 1 < shifted o k)
    {r : Rule} {w : WideKey} (hr : s.entry .admission k = .wideHead r) (hw : s.entry .admission (k + 1) = .continuation w) :
    s.Rewrites .admission (clearedAt (withWide (s.entry .admission) (shifted o k) r w) [k, k + 1]) (s.carry .admission o [k, k + 1]) := by
  have head := ((State.Rewrites.refl h .admission).set (show shifted o k < s.tableSize .admission by omega)
    (s.entry .admission k)).set (show k < s.tableSize .admission by omega) .empty
  have both := (head.set (show shifted o (k + 1) < s.tableSize .admission by omega) (s.entry .admission (k + 1))).set hk .empty
  refine ⟨both.banks, both.size, fun j hj => (both.entry j hj).trans ?_, both.other, both.block⟩
  rw [hr, hw, next]
  unfold clearedAt withWide
  simp only [Function.update_apply, List.mem_cons, List.not_mem_nil, or_false]
  by_cases h1 : j = k + 1
  · simp [h1]
  by_cases h2 : j = k
  · have : k ≠ shifted o k + 1 := by omega
    simp [h2, this]
  simp [h1, h2]

theorem carry_wide_tablesWhole (hs : s.TablesWhole) {o : Int} {k : Nat} (hk : k + 1 < s.tableSize .admission) (even : k % 2 = 0)
    (hd : shifted o k + 1 < s.tableSize .admission) (evenDest : shifted o k % 2 = 0) (next : shifted o (k + 1) = shifted o k + 1)
    (apart : shifted o k + 1 < k ∨ k + 1 < shifted o k) (hfree : s.entry .admission (shifted o k) = .empty)
    (hfree' : s.entry .admission (shifted o k + 1) = .empty) {r : Rule} {w : WideKey} (hr : s.entry .admission k = .wideHead r)
    (hw : s.entry .admission (k + 1) = .continuation w) : (s.carry .admission o [k, k + 1]).TablesWhole := by
  have ⟨banks, rules, routes, block⟩ := hs
  refine (rewrites_carry_two banks hk hd next apart hr hw).admission hs ?_
  have placed := (rulesWhole_iff.1 rules).placeWide evenDest hfree hfree' r w
  refine placed.clear fun j x hj hx => ?_
  obtain ⟨jeven, -⟩ := (placed j hj).1 x hx
  simp only [List.mem_cons, List.not_mem_nil, or_false]
  omega

theorem carry_nil (s : State) (t : TableId) (o : Int) : s.carry t o [] = s := rfl

/-- A MOVE's step carries its entry whole to EMPTY slots of its own table. -/
theorem carry_tablesWhole (hs : s.TablesWhole) (hb : s.block = some b) (hk : b.kind = .move)
    (hfree : ∀ j ∈ s.stepSlots b.table b.next, s.entry b.table (shifted b.offset j) = .empty) :
    (s.carry b.table b.offset (s.stepSlots b.table b.next)).TablesWhole := by
  have ⟨banks, rules, routes, block⟩ := hs
  have sound := block b hb
  obtain ⟨hq, low, high⟩ := next_lt sound hk
  have ⟨_, _, _, _, move, _⟩ := sound
  obtain ⟨-, -, moves, evenOffset⟩ := move hk
  have dest := shifted_eq low
  cases ht : b.table with
  | route =>
    rw [ht] at hq high
    unfold State.stepSlots
    cases hr : s.routeAt b.next with
    | none => exact hs
    | some r => exact carry_route_tablesWhole hs hq (by omega) (routeAt_iff.1 hr)
  | admission =>
    rw [ht] at hq high hfree
    have size := tableSize_even s .admission
    have evenOffset := evenOffset ht
    unfold State.stepSlots at hfree ⊢
    obtain ⟨k, r, w, hqk, even, hk1, hr, hw, slots, held⟩ | ⟨r, hr, slots, held⟩ | ⟨-, -, none⟩ := rule_cases s rules hq
    · dsimp only at hfree ⊢
      rw [if_pos held, slots] at hfree ⊢
      have low' : 0 ≤ (k : Int) + b.offset := by omega
      have head := shifted_eq low'
      have next : shifted b.offset (k + 1) = shifted b.offset k + 1 := by
        have := shifted_eq (o := b.offset) (i := k + 1) (by omega)
        omega
      exact carry_wide_tablesWhole hs hk1 even (by omega) (by omega) next (by omega) (hfree k (by simp))
        (next ▸ hfree (k + 1) (by simp)) hr hw
    · dsimp only at hfree ⊢
      rw [if_pos held, slots] at hfree ⊢
      exact carry_narrow_tablesWhole hs hq (by omega) (hfree b.next (by simp)) hr
    · dsimp only
      rw [none, if_neg (by simp), carry_nil]; exact hs

end

/-! ### The other effects on the tables -/

section
variable {s v : State}

/-- Where tables, banks and the block context are left, the tables stay whole. -/
theorem tablesWhole_congr (h : s.TablesWhole) (hs : v.slots = s.slots) (ha : v.admissionBanks = s.admissionBanks)
    (hr : v.routeBanks = s.routeBanks) (hb : ∀ b, v.block = some b → s.BlockSound b) : v.TablesWhole := by
  have banksOf : v.banksOf = s.banksOf := by funext t; cases t <;> assumption
  have size : v.tableSize = s.tableSize := by funext t; unfold State.tableSize; rw [banksOf]
  have entry : v.entry = s.entry := by funext t i; unfold State.entry State.slotKey; rw [banksOf, slot_congr hs]
  have ⟨banks, rules, routes, _⟩ := h
  refine ⟨?_, ?_, ?_, fun b hb' => blockSound_mono (hb b hb') fun u => by rw [size]⟩
  · unfold State.BanksApart; rw [ha, hr, slot_congr hs]; exact banks
  · rw [rulesWhole_iff, size, entry]; exact rules
  · rw [routesDistinct_iff, size, entry]; exact routesDistinct_iff.1 routes

theorem alike_empty {x : Slot} (h : Slot.empty.Alike x) : x = .empty := by cases x <;> first | rfl | exact h.elim

theorem Slot.Alike.refl (x : Slot) : x.Alike x := by cases x <;> simp [Slot.Alike]

theorem alike_head {x : Slot} {r : Rule} (h : x.Alike (.wideHead r)) : ∃ q, x = .wideHead q := by
  cases x <;> first | exact ⟨_, rfl⟩ | exact h.elim

theorem alike_continuation {x : Slot} {w : WideKey} (h : x.Alike (.continuation w)) : ∃ v, x = .continuation v := by
  cases x <;> first | exact ⟨_, rfl⟩ | exact h.elim

theorem alike_of_route {x : Slot} {r : Route} (h : x.Alike (.route r)) : ∃ q, x = .route q ∧ q.feed = r.feed ∧ q.bus = r.bus := by
  cases x <;> first | exact ⟨_, rfl, h⟩ | exact h.elim

theorem head_alike {x : Slot} {r : Rule} (h : (Slot.wideHead r).Alike x) : ∃ q, x = .wideHead q := by
  cases x <;> first | exact ⟨_, rfl⟩ | exact h.elim

theorem continuation_alike {x : Slot} {w : WideKey} (h : (Slot.continuation w).Alike x) : ∃ v, x = .continuation v := by
  cases x <;> first | exact ⟨_, rfl⟩ | exact h.elim

theorem route_alike {x : Slot} {r : Route} (h : (Slot.route r).Alike x) : ∃ q, x = .route q := by
  cases x <;> first | exact ⟨_, rfl⟩ | exact h.elim

theorem RulesOn.alike {N : Nat} {e e' : Nat → Slot} (h : RulesOn N e) (he : ∀ i, (e i).Alike (e' i)) : RulesOn N e' := by
  intro i hi
  obtain ⟨head, continuation, noRoute⟩ := h i hi
  refine ⟨fun r hr => ?_, fun w hw => ?_, fun r hr => ?_⟩
  · obtain ⟨q, hq⟩ := alike_head (hr ▸ he i)
    obtain ⟨even, w, hw⟩ := head q hq
    exact ⟨even, continuation_alike (hw ▸ he (i + 1))⟩
  · obtain ⟨v, hv⟩ := alike_continuation (hw ▸ he i)
    obtain ⟨odd, q, hq⟩ := continuation v hv
    exact ⟨odd, head_alike (hq ▸ he (i - 1))⟩
  · obtain ⟨q, hq, -⟩ := alike_of_route (hr ▸ he i)
    exact noRoute q hq

theorem RoutesOn.alike {N : Nat} {e e' : Nat → Slot} (h : RoutesOn N e) (he : ∀ i, (e i).Alike (e' i)) : RoutesOn N e' := by
  refine ⟨fun i hi => ?_, fun i j r q hi hj hr hq hf hb => ?_⟩
  · rcases h.1 i hi with hx | ⟨r, hx⟩
    · exact .inl (alike_empty (hx ▸ he i))
    · exact .inr (route_alike (hx ▸ he i))
  · obtain ⟨r', hr', rf, rb⟩ := alike_of_route (hr ▸ he i)
    obtain ⟨q', hq', qf, qb⟩ := alike_of_route (hq ▸ he j)
    exact h.2 i j r' q' hi hj hr' hq' (rf.trans (hf.trans qf.symm)) (rb.trans (hb.trans qb.symm))

/-- A slot may give way to one of the same kind (counts, states, gains). -/
theorem setSlot_tablesWhole (h : s.TablesWhole) {k : Nat} {x : Slot} (hx : (s.slot k).Alike x) : (s.setSlot k x).TablesWhole := by
  have ⟨banks, rules, routes, block⟩ := h
  have slots (j : Nat) : (s.slot j).Alike ((s.setSlot k x).slot j) := by
    rw [slot_setSlot]
    split
    · rename_i hj; exact hj ▸ hx
    · exact .refl _
  have entries (t : TableId) (i : Nat) : (s.entry t i).Alike ((s.setSlot k x).entry t i) := by
    cases t <;> exact slots _
  refine ⟨⟨banks.1, fun j hj => alike_empty (banks.2 j hj ▸ slots j)⟩, ?_, ?_, fun b hb => ?_⟩
  · exact RulesOn.alike rules (entries .admission)
  · exact routesDistinct_iff.2 ((routesDistinct_iff.1 routes).alike (entries .route))
  · exact blockSound_mono (block b hb) fun u => by cases u <;> exact le_rfl

end

/-! ### A bank assigned (R119) -/

section
variable {s : State} {b : Nat} {t : TableId}

theorem banksOf_addBank (s : State) (b : Nat) (t u : TableId) :
    (s.addBank b t).banksOf u = if t = u then s.banksOf u ++ [b] else s.banksOf u := by cases t <;> cases u <;> rfl

theorem slot_addBank (s : State) (b : Nat) (t : TableId) : (s.addBank b t).slot = s.slot := by cases t <;> rfl

theorem block_addBank (s : State) (b : Nat) (t : TableId) : (s.addBank b t).block = s.block := by cases t <;> rfl

theorem tableSize_addBank (s : State) (b : Nat) (t u : TableId) : s.tableSize u ≤ (s.addBank b t).tableSize u := by
  unfold State.tableSize
  rw [banksOf_addBank]
  split
  · rw [List.length_append]; exact Nat.mul_le_mul_right _ (Nat.le_add_right ..)
  · exact le_rfl

/-- The indices that a table had name the slots they named. -/
theorem entry_addBank_old {u : TableId} {i : Nat} (hi : i < s.tableSize u) : (s.addBank b t).entry u i = s.entry u i := by
  obtain ⟨hd, -⟩ := slotKey_inside s u hi
  unfold State.entry State.slotKey
  rw [slot_addBank, banksOf_addBank]
  split
  · rw [Config.bankSlots, List.getD_append _ _ _ _ hd]
  · rfl

/-- The indices that a table gains name slots of the new bank. -/
theorem entry_addBank_new (apart : s.BanksApart) (hb : s.bankTaken b = false) {u : TableId} {i : Nat} (hi : s.tableSize u ≤ i)
    (hi' : i < (s.addBank b t).tableSize u) : (s.addBank b t).entry u i = .empty := by
  have free : b ∉ s.admissionBanks ++ s.routeBanks := by simpa [State.bankTaken] using hb
  unfold State.tableSize at hi hi'
  rw [banksOf_addBank] at hi'
  split at hi'
  · rename_i htu
    rw [List.length_append, List.length_singleton, Nat.succ_mul] at hi'
    have place : i / 128 = (s.banksOf u).length := by
      have : (s.banksOf u).length * 128 ≤ i := hi
      have : i < (s.banksOf u).length * 128 + 128 := hi'
      omega
    have bank : (s.addBank b t).slotKey u i / 128 = b := by
      unfold State.slotKey
      rw [banksOf_addBank, if_pos htu, Config.bankSlots, place, List.getD_append_right _ _ _ _ le_rfl, Nat.sub_self]
      show (b * 128 + i % 128) / 128 = b
      omega
    show (s.addBank b t).slot _ = _
    rw [slot_addBank]
    exact apart.2 _ (by rw [Config.bankSlots, bank]; exact free)
  · omega

theorem banksApart_addBank (apart : s.BanksApart) (hb : s.bankTaken b = false) : (s.addBank b t).BanksApart := by
  have free : b ∉ s.admissionBanks ++ s.routeBanks := by simpa [State.bankTaken] using hb
  obtain ⟨nodup, empty⟩ := apart
  have perm : ((s.addBank b t).admissionBanks ++ (s.addBank b t).routeBanks).Perm (b :: (s.admissionBanks ++ s.routeBanks)) := by
    cases t with
    | admission =>
      show (s.admissionBanks ++ [b] ++ s.routeBanks).Perm _
      rw [List.append_assoc]
      exact List.perm_middle
    | route =>
      show (s.admissionBanks ++ (s.routeBanks ++ [b])).Perm _
      rw [← List.append_assoc]
      exact List.perm_append_singleton ..
  refine ⟨perm.nodup_iff.2 (List.nodup_cons.2 ⟨free, nodup⟩), fun k hk => ?_⟩
  rw [slot_addBank]
  exact empty k fun hm => hk (perm.mem_iff.2 (List.mem_cons_of_mem _ hm))

theorem addBank_tablesWhole (h : s.TablesWhole) (hb : s.bankTaken b = false) : (s.addBank b t).TablesWhole := by
  have ⟨apart, rules, routes, block⟩ := h
  have new {u : TableId} {i : Nat} := entry_addBank_new (t := t) (u := u) (i := i) apart hb
  refine ⟨banksApart_addBank apart hb, fun i hi => ?_, routesDistinct_iff.2 ⟨fun i hi => ?_, fun i j r q hi hj hr hq hf hb' => ?_⟩,
    fun c hc => blockSound_mono (block c (block_addBank s b t ▸ hc)) (tableSize_addBank s b t)⟩
  · rcases Nat.lt_or_ge i (s.tableSize .admission) with old | above
    · obtain ⟨head, continuation, noRoute⟩ := rules i old
      have size := tableSize_even s .admission
      rw [entry_addBank_old old]
      refine ⟨fun r hr => ?_, fun w hw => ?_, noRoute⟩
      · obtain ⟨even, w, hw⟩ := head r hr
        exact ⟨even, w, (entry_addBank_old (by omega)).trans hw⟩
      · obtain ⟨odd, r, hr⟩ := continuation w hw
        exact ⟨odd, r, (entry_addBank_old (by omega)).trans hr⟩
    · rw [new above hi]; exact ⟨nofun, nofun, nofun⟩
  · rcases Nat.lt_or_ge i (s.tableSize .route) with old | above
    · rw [entry_addBank_old old]; exact routes.1 i old
    · exact .inl (new above hi)
  · have old {k : Nat} {x : Route} (hk : k < (s.addBank b t).tableSize .route) (hx : (s.addBank b t).entry .route k = .route x) :
        k < s.tableSize .route := Nat.lt_of_not_le fun above => by rw [new above hk] at hx; cases hx
    have hio := old hi hr
    have hjo := old hj hq
    rw [entry_addBank_old hio] at hr
    rw [entry_addBank_old hjo] at hq
    exact (routesDistinct_iff.1 routes).2 i j r q hio hjo hr hq hf hb'

end

theorem tableSize_reset (t : TableId) : State.reset.tableSize t = 0 := by cases t <;> rfl

theorem tablesWhole_reset : State.reset.TablesWhole := by
  have none_below {t : TableId} {i : Nat} (hi : i < State.reset.tableSize t) : False := by
    rw [tableSize_reset] at hi; exact Nat.not_lt_zero i hi
  exact ⟨⟨List.nodup_nil, fun _ _ => rfl⟩, fun _ hi => (none_below hi).elim,
    ⟨fun _ hi => (none_below hi).elim, fun _ _ _ _ hi => (none_below hi).elim⟩, fun b (hb : none = some b) => nomatch hb⟩

/-- An image, a MOVE's step and a bank assigned keep the tables whole; a block context is sound from its start on; every other effect
changes a slot at most to one of the same kind. -/
theorem effect_tablesWhole {m : Nat} {s t : State} (e : Effect m s t) (h : s.TablesWhole) : t.TablesWhole := by
  have ⟨banks, rules, routes, block⟩ := h
  cases e with
  | quiet _ ht => exact tablesWhole_congr h (by rw [ht]) (by rw [ht]) (by rw [ht]) (fun b hb => block b (by rw [ht] at hb; exact hb))
  | slot k x hx => exact setSlot_tablesWhole h hx
  | image t i img _ good => exact putImage_tablesWhole h (good block)
  | carry b _ hb hk hd => exact carry_tablesWhole h hb hk hd
  | bank b t _ _ hf => exact addBank_tablesWhole h hf
  | blockStarts b _ _ _ hs => exact tablesWhole_congr h rfl rfl rfl fun c hc => Option.some.inj hc ▸ hs
  | blockTurns b c _ hb _ hs => exact tablesWhole_congr h rfl rfl rfl fun d hd => Option.some.inj hd ▸ hs (block b hb)
  | blockEnds b r _ _ _ => exact tablesWhole_congr h rfl rfl rfl fun c (hc : none = some c) => nomatch hc
  | blockLeaves b _ _ _ => exact tablesWhole_congr h rfl rfl rfl fun c (hc : none = some c) => nomatch hc
  | resets _ _ ht _ _ =>
    exact tablesWhole_congr tablesWhole_reset (by rw [ht]) (by rw [ht]) (by rw [ht]) (fun b hb => by rw [ht] at hb; cases hb)
  | close n _ =>
    exact tablesWhole_congr h (by rw [closeFeed_eq]) (by rw [closeFeed_eq]) (by rw [closeFeed_eq]) fun b hb =>
      block b (by rw [closeFeed_eq] at hb; exact hb)
  | openFeed n rate k pages target auto ret start _ _ _ _ _ =>
    exact tablesWhole_congr h (by rw [openFeed_eq]) (by rw [openFeed_eq]) (by rw [openFeed_eq]) fun b hb =>
      block b (by rw [openFeed_eq] at hb; exact hb)
  | retune n rate k _ _ _ _ =>
    have same : (s.retune n rate k).TablesWhole ↔ (s.moveInUse (s.feed n).kernel k).TablesWhole := Iff.rfl
    rw [same, State.moveInUse]
    split
    · exact h
    · exact tablesWhole_congr h rfl rfl rfl block
  | exchange b d _ _ _ =>
    exact tablesWhole_congr h (by rw [exchangeDelay_eq]) (by rw [exchangeDelay_eq]) (by rw [exchangeDelay_eq]) fun b hb =>
      block b (by rw [exchangeDelay_eq] at hb; exact hb)
  | _ => exact tablesWhole_congr h rfl rfl rfl block

/-- Settles O60: every effect of a step keeps the tables whole. -/
theorem stepsKeepTablesWhole : Obligations.StepsKeepTablesWhole :=
  fun _ _ hs h => (step_effects h).keep (fun _ _ => effect_tablesWhole) hs

/-! ### After reset -/

/-- Settles O53: each invariant of a device after STARTING, whose stores list nothing but kernel set 0. -/
theorem invariantsHoldAtReset : Obligations.InvariantsHoldAtReset := by
  refine ⟨canonical_reset, ⟨by decide, rfl⟩, linkBounded_reset, ⟨Nat.zero_le _, List.Pairwise.nil, fun _ => rfl⟩,
    fun _ => stepBounded_of_nominal (by decide : 0 < 16777216) rfl rfl, ⟨fun _ => ?_, fun _ _ => rfl⟩, poolSound_reset.agrees,
    useSound_reset.kernelsCounted, tablesWhole_reset⟩
  exact ⟨Nat.zero_le _, (Nat.zero_mod _).symm, fun _ => ⟨rfl, rfl⟩⟩

end Sys2Proof.Machine

/-! PROOFS. The control path (file 09), reset (file 01), and the mix engine's remaining commands: in each owner's rule one equation per
case, brought to the row by `exec_of_own`. -/

namespace Sys2Proof.Machine

/-! ### Taking a command (R156 to R164) -/

section
variable {s : State} {i : Instr} {h : Hdr}

/-- R158's exception, in the words of R165: an untimed RESET DEVICE of good length from a FULL link. -/
theorem resetsAtOnce_iff :
    s.resetsAtOnce i h = true ↔ (∃ g, i = .resetDevice g) ∧ h.timed = none ∧ h.lenOk = true ∧ s.roles.get h.link = .full := by
  cases i <;> simp [State.resetsAtOnce, and_assoc]

theorem mustWait_iff :
    s.mustWait i h = true ↔
      h.acked = true ∧ 64 ≤ s.entryCount ∧
        ¬ ((∃ g, i = .resetDevice g) ∧ h.timed = none ∧ h.lenOk = true ∧ s.roles.get h.link = .full) := by
  unfold State.mustWait
  rw [Bool.and_eq_true, Bool.and_eq_true, decide_eq_true_iff, Bool.not_eq_true', ← Bool.not_eq_true, resetsAtOnce_iff, and_assoc]

theorem commandDue_starting (he : s.engine = .starting) : s.commandDue i h = s := if_pos he

/-- Nothing stands ahead of the command, and it needs a reply slot that is not free. -/
theorem commandDue_waits (he : s.engine ≠ .starting) (hq : s.fifos.get h.link = []) (hw : s.mustWait i h = true) :
    s.commandDue i h = s.setFifo h.link [[i]] := by
  rw [State.commandDue, if_neg he]
  exact (if_pos hq).trans (if_pos hw)

theorem frontCommand_ne_nil {q : List (List Instr)} (hf : frontCommand q = some i) : q ≠ [] := by rintro rfl; cases hf

/-- The command stands at the front of its FIFO and goes on waiting. -/
theorem commandDue_goesOnWaiting (he : s.engine ≠ .starting) (hf : frontCommand (s.fifos.get h.link) = some i)
    (hw : s.mustWait i h = true) : s.commandDue i h = s := by
  rw [State.commandDue, if_neg he]
  exact (if_neg (frontCommand_ne_nil hf)).trans ((if_pos hf).trans (if_pos hw))

theorem commandDue_joins (he : s.engine ≠ .starting) (hq : s.fifos.get h.link ≠ [])
    (hf : frontCommand (s.fifos.get h.link) ≠ some i) : s.commandDue i h = s.enqueueControl h.link [i] := by
  rw [State.commandDue, if_neg he]
  exact (if_neg hq).trans (if_neg hf)

/-- The acknowledged command at the front of a link's FIFO. -/
theorem takeWaiting_acked {l : Link} (he : s.engine ≠ .starting) (hf : frontCommand (s.fifos.get l) = some i) (hi : i.hdr? = some h)
    (ha : h.acked = true) :
    s.takeWaiting l =
      if s.mustWait i h then s else (s.setFifo l (popFront (s.fifos.get l))).take i h := by
  rw [State.takeWaiting, if_neg he, hf]
  simp only [hi, ha, Bool.true_and]
  cases s.mustWait i h <;> rfl

end

/-- Settles O2: the first five clauses after the waiting rule are the branches of `State.commandDue`, the last two those of
`State.takeWaiting`. -/
theorem commandRowsFollowTheControlPath : Obligations.CommandRowsFollowTheControlPath := by
  refine ⟨fun i h s hi => ?rows, fun l i h s he hf hi ha => ?waiting⟩
  case rows =>
    have row {t : State} (e : s.commandDue i h = t) : exec i s = .next t.settle := by rw [exec_of_hdr s hi, State.commandRow, e]
    exact ⟨mustWait_iff, fun he => row (commandDue_starting he), exec_of_takes, fun he hq hw => row (commandDue_waits he hq hw),
      fun he hf hw => row (commandDue_goesOnWaiting he hf hw), fun he hq hf => row (commandDue_joins he hq hf)⟩
  case waiting =>
    have row : exec (.waitingCommandTaken l) s = .next (s.takeWaiting l).settle := rfl
    rw [row, takeWaiting_acked he hf hi ha]
    exact ⟨fun hw => by rw [hw]; rfl, fun hw => by rw [hw]; rfl⟩

section
variable {s : State} {i : Instr} {h : Hdr}

/-- Steps 2 to 6 of R158 on a command that the table lists. -/
theorem take_known (hu : isUnknown i = false) :
    s.take i h =
      match h.timed with
      | some t => s.cueArrival i h (BitVec.ofNat 48 t)
      | none =>
        if permitted (s.roles.get h.link) i = false then s.refuse (askOf h i .device) .notPermitted []
        else if h.lenOk = false then s.refuse (askOf h i .device) .badOperand []
        else s.own i (askOf h i (subjectOf i)) := by
  rw [State.take, if_neg (by simp [hu])]
  cases h.timed with
  | none => simp only [Bool.not_eq_true']
  | some t => rfl

end

/-- Settles O3: the clauses are the branches of `State.take` in their order, and the roles those of `permitted`. -/
theorem commandsAreJudgedInOrder : Obligations.CommandsAreJudgedInOrder := by
  refine ⟨fun h code s t => exec_of_takes t, fun i h s t hu => ?known, fun i => ⟨rfl, rfl⟩, fun i => ?mix⟩
  case known =>
    have taken := take_known (s := s.handed h) (h := h) hu
    have row {u : State} (e : (s.handed h).take i h = u) : exec i s = .next u.settle := by rw [exec_of_takes t, e]
    refine ⟨fun time ht => row ?_, fun ht hp => row ?_, fun ht hp hl => row ?_, fun ht hp hl => row ?_⟩
    · rw [taken, ht]
    · rw [taken, ht]; exact if_pos hp
    · rw [taken, ht]; exact (if_neg (by simp [State.handed, State.setFifo, hp])).trans (if_pos hl)
    · rw [taken, ht]; exact (if_neg (by simp [State.handed, State.setFifo, hp])).trans (if_neg (by simp [hl]))
  case mix => cases i <;> simp [permitted, mixAllows]

/-! ### Reset and STARTING (R1, R3, R165) -/

/-- A device in STARTING has both links DOWN, so no egress starts a frame. -/
theorem settle_enterStarting (s : State) (low : Bool) (c : Nat) : (s.enterStarting low c).settle = s.enterStarting low c :=
  settle_idle fun l => .inl (by cases l <;> rfl)

/-- Settles O5: the four ways into STARTING are `State.enterStarting`, and each row that STARTING ignores tests the engine first. -/
theorem resetEntersStarting : Obligations.ResetEntersStarting := by
  refine ⟨fun s => ⟨rfl, rfl, rfl⟩, fun h s rd => ?_, fun s he => ⟨fun l p => ?_, fun l bs => ?_, ?_, ?_⟩⟩
  · exact (exec_of_ready rd).trans (congrArg _ (settle_enterStarting (s.handed h) false 1))
  · exact congrArg Host.Outcome.next (if_pos he)
  · exact congrArg Host.Outcome.next (if_pos he)
  · exact congrArg (fun t : State => Host.Outcome.next t.settle) (if_neg (by rw [he]; nofun))
  · exact congrArg Host.Outcome.next (if_neg (by rw [he]; nofun))

/-! ### START ENGINE (R5) -/

section
variable {s : State} {h : Hdr} (a : Ask)

theorem own_startEngine_config (he : s.engine = .config) :
    s.own (.startEngine h) a =
      ({ s.finishInstant.clearSequences with engine := .run }.reply a .ok (words48 s.finishInstant.houseTime)).plainEvent
        .engineState .device [1] := by
  refine (if_neg (not_run_of_config he)).trans ?_
  unfold State.engineEvent
  rw [reply_eq]
  rfl

theorem own_startEngine_run (he : s.engine = .run) : s.own (.startEngine h) a = s.finishInstant.refuse a .wrongState [] :=
  if_pos ((finishInstant_engine s).trans he)

end

/-- Settles O7: the owner's rule in CONFIG and in RUN. -/
theorem startEngineRuns : Obligations.StartEngineRuns := fun _ _ rd =>
  ⟨fun he => exec_of_own rd (own_startEngine_config _ (handed_engine he)),
    fun he => exec_of_own rd (own_startEngine_run _ (handed_engine he))⟩

/-! ### SET ROUTE GAIN (R15) -/

section
variable {s : State} {h : Hdr} (a : Ask) {i T L : Nat}

theorem own_setRouteGain_badIndex (hi : s.finishInstant.tableSize .route ≤ i) :
    s.own (.setRouteGain h i T L) a = s.finishInstant.refuse a .badIndex [] := if_pos hi

theorem own_setRouteGain_empty (hi : i < s.finishInstant.tableSize .route) (hr : s.finishInstant.routeAt i = none) :
    s.own (.setRouteGain h i T L) a = s.finishInstant.refuse a .routeEmpty [] := by
  refine (if_neg (Nat.not_le.2 hi)).trans ?_
  rw [hr]

theorem own_setRouteGain_route (hi : i < s.finishInstant.tableSize .route) {r : Route} (hr : s.finishInstant.routeAt i = some r) :
    s.own (.setRouteGain h i T L) a =
      (s.finishInstant.setEntry .route i (.route (r.setGain T L))).reply a .ok
        [wordNat (r.current / 65536), wordNat T, wordNat L] := by
  refine (if_neg (Nat.not_le.2 hi)).trans ?_
  rw [State.applyRouteGain, hr]

end

/-- Settles O10: the owner's rule by the index and the slot there; the new gain is `Route.setGain`. -/
theorem setRouteGainRamps : Obligations.SetRouteGainRamps := fun _ _ _ _ _ rd =>
  ⟨fun hi => exec_of_own rd (own_setRouteGain_badIndex _ hi), fun hi hr => exec_of_own rd (own_setRouteGain_empty _ hi hr),
    fun _ hi hr => exec_of_own rd (own_setRouteGain_route _ hi hr)⟩

/-! ### Bus commands (R18, R20, R22, R23) -/

section
variable {s : State} {h : Hdr} (a : Ask) {b : Nat}

theorem own_enableBus (hb : b ≤ 63) {x y : BusState} (hx : (s.finishInstant.bus b).state = x) (hy : x.enable = y) :
    s.own (.enableBus h b) a =
      (s.finishInstant.setBus b { s.finishInstant.bus b with state := y }).reply a .ok [wordNat y.num] := by
  subst hx hy
  exact if_neg (Nat.not_lt.2 hb)

theorem own_disableBus (hb : b ≤ 63) {x y : BusState} (hx : (s.finishInstant.bus b).state = x) (hy : x.disable = y) :
    s.own (.disableBus h b) a =
      (s.finishInstant.setBus b { s.finishInstant.bus b with state := y }).reply a .ok [wordNat y.num] := by
  subst hx hy
  exact if_neg (Nat.not_lt.2 hb)

theorem own_setBusTrim (hb : b ≤ 63) (trim : Nat) :
    s.own (.setBusTrim h b trim) a =
      (s.finishInstant.setBus b { s.finishInstant.bus b with trim := min trim 32768 }).reply a .ok [wordNat (min trim 32768)] :=
  if_neg (Nat.not_lt.2 hb)

theorem own_setBusMute (hb : b ≤ 63) {mute : Nat} {on : Bool} (hm : onOff? mute = some on) :
    s.own (.setBusMute h b mute) a =
      (s.finishInstant.setBus b { s.finishInstant.bus b with mute := on }).reply a .ok [wordBool on] := by
  refine (if_neg (Nat.not_lt.2 hb)).trans ?_
  rw [hm]; rfl

theorem own_setBusMute_bad (hb : b ≤ 63) {mute : Nat} (hm : 1 < mute) :
    s.own (.setBusMute h b mute) a = s.finishInstant.refuse a .badOperand [] := by
  refine (if_neg (Nat.not_lt.2 hb)).trans ?_
  rw [onOff?_none hm]

theorem own_setBusMode (hb : b ≤ 63) {mode solo : Nat} {m : BusMode} (hm : busMode? mode = some m) (hs : solo ≤ 127) :
    s.own (.setBusMode h b mode solo) a =
      (s.finishInstant.setBus b { s.finishInstant.bus b with mode := m, soloFeed := solo }).reply a .ok
        [wordNat m.num, wordNat solo] := by
  refine (if_neg (Nat.not_lt.2 hb)).trans ?_
  rw [hm]
  exact if_neg (Nat.not_lt.2 hs)

theorem own_setBusMode_bad (hb : b ≤ 63) {mode solo : Nat} (bad : busMode? mode = none ∨ 127 < solo) :
    s.own (.setBusMode h b mode solo) a = s.finishInstant.refuse a .badOperand [] := by
  refine (if_neg (Nat.not_lt.2 hb)).trans ?_
  cases hm : busMode? mode with
  | none => rfl
  | some m => exact if_pos (bad.resolve_left (by simp [hm]))

theorem busLink?_none {link : Nat} (h0 : link ≠ 0) (h1 : link ≠ 1) (h255 : link ≠ 255) : busLink? link = none := by
  rw [busLink?, if_neg h255, Link.ofNat?_none (by omega)]; rfl

/-- SET BUS LINK on a DISABLED bus. -/
theorem own_setBusLink (hb : b ≤ 63) (hs : (s.finishInstant.bus b).state = .disabled) {link : Nat} {l : Option Link}
    (hl : busLink? link = some l) :
    s.own (.setBusLink h b link) a = (s.finishInstant.setBus b { s.finishInstant.bus b with link := l }).reply a .ok [] := by
  refine (if_neg (Nat.not_lt.2 hb)).trans ((if_neg (not_not.2 hs)).trans ?_)
  rw [hl]

theorem own_setBusLink_bad (hb : b ≤ 63) (hs : (s.finishInstant.bus b).state = .disabled) {link : Nat} (hl : busLink? link = none) :
    s.own (.setBusLink h b link) a = s.finishInstant.refuse a .badOperand [] := by
  refine (if_neg (Nat.not_lt.2 hb)).trans ((if_neg (not_not.2 hs)).trans ?_)
  rw [hl]

theorem own_setBusLink_active (hb : b ≤ 63) (hs : (s.finishInstant.bus b).state ≠ .disabled) (link : Nat) :
    s.own (.setBusLink h b link) a = s.finishInstant.refuse a .busActive [] :=
  (if_neg (Nat.not_lt.2 hb)).trans (if_pos hs)

theorem own_readBus (hb : b ≤ 63) : s.own (.readBus h b) a = s.finishInstant.reply a .ok (s.finishInstant.bus b).words :=
  if_neg (Nat.not_lt.2 hb)

theorem own_ackBusEvents (hb : b ≤ 63) {clear : Nat} {c : Bool} (hc : onOff? clear = some c) :
    s.own (.ackBusEvents h b clear) a =
      (s.finishInstant.setBus b
        { s.finishInstant.bus b with clipFlag := false, clipCount := if c then 0 else (s.finishInstant.bus b).clipCount }).reply a .ok
        [wordNat (s.finishInstant.bus b).clipCount] := by
  refine (if_neg (Nat.not_lt.2 hb)).trans ?_
  rw [hc]

theorem own_ackBusEvents_bad (hb : b ≤ 63) {clear : Nat} (hc : 1 < clear) :
    s.own (.ackBusEvents h b clear) a = s.finishInstant.refuse a .badOperand [] := by
  refine (if_neg (Nat.not_lt.2 hb)).trans ?_
  rw [onOff?_none hc]

end

/-- Settles O11: R18's tables are `BusState.enable` and `BusState.disable`; the other requests store their operand or refuse it. -/
theorem busRequestsAreStored : Obligations.BusRequestsAreStored := by
  refine ⟨fun h b s hb => ⟨fun x y hxy rd hx => ?enable, fun x y hxy rd hx => ?disable,
    fun trim rd => exec_of_own rd (own_setBusTrim _ hb trim), fun mute on hm rd => exec_of_own rd (own_setBusMute _ hb hm),
    fun mode solo m hm hs rd => exec_of_own rd (own_setBusMode _ hb hm hs),
    fun mute hm rd => exec_of_own rd (own_setBusMute_bad _ hb hm),
    fun mode solo bad rd => exec_of_own rd (own_setBusMode_bad _ hb bad)⟩, fun i h b s hb hi rd => ?badIndex⟩
  case enable =>
    refine exec_of_own rd (own_enableBus _ hb hx ?_)
    rcases hxy with ⟨rfl | rfl, rfl⟩ | ⟨rfl | rfl, rfl⟩ <;> rfl
  case disable =>
    refine exec_of_own rd (own_disableBus _ hb hx ?_)
    rcases hxy with ⟨rfl | rfl, rfl⟩ | ⟨rfl | rfl, rfl⟩ <;> rfl
  case badIndex =>
    rcases hi with rfl | rfl | ⟨_, rfl⟩ | ⟨_, rfl⟩ | ⟨_, _, rfl⟩ <;> exact exec_of_own rd (if_pos hb)

theorem busLink?_known {link : Nat} {l : Option Link}
    (h : (link = 0 ∧ l = some Link.l0) ∨ (link = 1 ∧ l = some Link.l1) ∨ (link = 255 ∧ l = none)) : busLink? link = some l := by
  rcases h with ⟨rfl, rfl⟩ | ⟨rfl, rfl⟩ | ⟨rfl, rfl⟩ <;> rfl

theorem onOff?_eq {n : Nat} {c : Bool} (h : (n = 0 ∧ c = false) ∨ (n = 1 ∧ c = true)) : onOff? n = some c := by
  rcases h with ⟨rfl, rfl⟩ | ⟨rfl, rfl⟩ <;> rfl

/-- The ten words of READ BUS, the link's number spelled out. -/
theorem Bus.words_eq (x : Bus) :
    x.words =
      [wordNat x.state.num, wordNat x.mode.num, wordNat x.soloFeed, wordNat x.trim, wordBool x.mute, wordNat x.delay,
        wordNat x.pages.length, wordNat (match x.link with | some .l0 => 0 | some .l1 => 1 | none => 255), wordNat x.clipCount,
        wordBool x.clipFlag] := by
  unfold Bus.words
  rcases x.link with _ | _ | _ <;> rfl

/-- Settles O13: the owner's rule of each of the three commands, case by case. -/
theorem busLinkReadAndAck : Obligations.BusLinkReadAndAck := by
  refine ⟨fun h b s hb => ⟨fun link l hl rd hs => exec_of_own rd (own_setBusLink _ hb hs (busLink?_known hl)),
    fun link h0 h1 h255 rd hs => exec_of_own rd (own_setBusLink_bad _ hb hs (busLink?_none h0 h1 h255)),
    fun link rd hs => exec_of_own rd (own_setBusLink_active _ hb hs link), fun rd => ?read,
    fun clear c hc rd => exec_of_own rd (own_ackBusEvents _ hb (onOff?_eq hc)),
    fun clear hc rd => exec_of_own rd (own_ackBusEvents_bad _ hb hc)⟩, fun i h b s hb hi rd => ?badIndex⟩
  case read =>
    refine (exec_of_own rd (own_readBus _ hb)).trans ?_
    rw [Bus.words_eq]
    rfl
  case badIndex => rcases hi with ⟨_, rfl⟩ | rfl | ⟨_, rfl⟩ <;> exact exec_of_own rd (if_pos hb)

/-! ### Kernel sets (R29 to R31) -/

section
variable (k : KernelSet)

theorem row_writeRow (p q : Nat) (cs : List Int) : (k.writeRow p cs).row q = if p = q then cs else k.row q := cellGet_cellSet ..

theorem written_writeRow {p q : Nat} (hp : p ≤ 64) (cs : List Int) :
    (k.writeRow p cs).written.getLsbD q = (decide (q = p) || k.written.getLsbD q) := by
  show (k.written ||| (1#65 <<< p)).getLsbD q = _
  rw [BitVec.getLsbD_or, BitVec.getLsbD_shiftLeft, BitVec.getLsbD_one, Bool.or_comm]
  congr 1
  rw [Bool.eq_iff_iff]
  simp only [Bool.and_eq_true, decide_eq_true_iff, Bool.not_eq_true', decide_eq_false_iff_not]
  omega

variable (first : Nat) (cs : List Int)

/-- The rows of a LOAD KERNEL ROWS are written one after the other. -/
theorem writeRows_succ (n : Nat) :
    k.writeRows first (n + 1) cs = (k.writeRows first n cs).writeRow (first + n) ((cs.drop (16 * n)).take 16) := by
  unfold KernelSet.writeRows
  rw [List.range_succ, List.foldl_append]
  rfl

theorem writeRows_fixed (n : Nat) : (k.writeRows first n cs).state = k.state ∧ (k.writeRows first n cs).inUse = k.inUse := by
  induction n with
  | zero => exact ⟨rfl, rfl⟩
  | succ n ih => rw [writeRows_succ]; exact ih

theorem row_writeRows (n q : Nat) :
    (k.writeRows first n cs).row q =
      if first ≤ q ∧ q < first + n then (cs.drop (16 * (q - first))).take 16 else k.row q := by
  induction n with
  | zero => rw [if_neg (by omega)]; rfl
  | succ n ih =>
    rw [writeRows_succ, row_writeRow, ih]
    by_cases hq : first + n = q
    · rw [if_pos hq, if_pos (by omega), show q - first = n by omega]
    · rw [if_neg hq]
      exact if_congr (by omega) rfl rfl

theorem written_writeRows {n : Nat} (hn : first + n ≤ 65) (q : Nat) :
    (k.writeRows first n cs).written.getLsbD q = (decide (first ≤ q ∧ q < first + n) || k.written.getLsbD q) := by
  induction n with
  | zero => rw [decide_eq_false (by omega)]; rfl
  | succ n ih =>
    rw [writeRows_succ, written_writeRow _ (by omega), ih (by omega), ← Bool.or_assoc, ← Bool.decide_or]
    congr 2
    exact propext (by omega)

theorem loading_fixed : k.loading.state = .loading ∧ k.loading.inUse = k.inUse ∧ ∀ q, k.loading.row q = k.row q := by
  unfold KernelSet.loading
  cases h : k.state <;> simp [h, KernelSet.row]

/-- On leaving EMPTY or READY every written-row flag is clear (R30). -/
theorem written_loading (q : Nat) : k.loading.written.getLsbD q = (decide (k.state = .loading) && k.written.getLsbD q) := by
  unfold KernelSet.loading
  cases h : k.state <;> simp

end

/-- The operands of a LOAD KERNEL ROWS that R29 lets through, the set number aside. -/
def rowsOk (first count : Nat) (cs : List Int) : Prop :=
  1 ≤ count ∧ count ≤ 4 ∧ cs.length = 16 * count ∧ (∀ c ∈ cs, -65536 ≤ c ∧ c ≤ 65535) ∧ first + count ≤ 65

section
variable {s : State} {h : Hdr} (a : Ask) {k first count : Nat} {cs : List Int}

theorem all_coefficientFits_iff : cs.all coefficientFits = true ↔ ∀ c ∈ cs, -65536 ≤ c ∧ c ≤ 65535 := by
  simp [List.all_eq_true, coefficientFits]

/-- R29's two checks of the operands, as they stand in the owner's rule. -/
theorem rowsOk_iff :
    rowsOk first count cs ↔
      ¬ (count = 0 ∨ 4 < count ∨ cs.length ≠ 16 * count ∨ (!cs.all coefficientFits) = true) ∧ ¬ 65 < first + count := by
  unfold rowsOk
  rw [← all_coefficientFits_iff]
  by_cases hc : cs.all coefficientFits = true
  · simp only [hc, Bool.not_true, Bool.false_eq_true, or_false, true_and]; omega
  · simp [hc]

theorem own_loadKernelRows_badIndex (hk : 3 < k) : s.own (.loadKernelRows h k first count cs) a = s.refuse a .badIndex [] :=
  if_pos hk

theorem own_loadKernelRows_badOperand (hk : k ≤ 3) (bad : ¬ rowsOk first count cs) :
    s.own (.loadKernelRows h k first count cs) a = s.refuse a .badOperand [] := by
  refine (if_neg (Nat.not_lt.2 hk)).trans ?_
  rw [rowsOk_iff, not_and_or, not_not, not_not] at bad
  by_cases rows : count = 0 ∨ 4 < count ∨ cs.length ≠ 16 * count ∨ (!cs.all coefficientFits) = true
  · exact if_pos rows
  · exact (if_neg rows).trans (if_pos (bad.resolve_left rows))

/-- With the operands in order, the set's use decides. -/
theorem own_loadKernelRows_ok (hk : k ≤ 3) (ok : rowsOk first count cs) :
    s.own (.loadKernelRows h k first count cs) a =
      if (s.kernel k).state = .ready ∧ 0 < (s.kernel k).inUse then s.refuse a .setInUse []
      else (s.setKernel k ((s.kernel k).loading.writeRows first count cs)).reply a .ok
        [wordNat ((s.kernel k).loading.writeRows first count cs).state.num,
          wordNat ((s.kernel k).loading.writeRows first count cs).writtenCount] := by
  obtain ⟨rows, range⟩ := rowsOk_iff.1 ok
  exact (if_neg (Nat.not_lt.2 hk)).trans ((if_neg rows).trans (if_neg range))

end

/-- Settles O14: the refusals are the owner's checks in their order; the set written is told row by row and flag by flag. -/
theorem kernelRowsAreWritten : Obligations.KernelRowsAreWritten := by
  refine ⟨fun h k first count cs s rd => ⟨fun hk => exec_of_own rd (own_loadKernelRows_badIndex _ hk),
    fun hk bad => exec_of_own rd (own_loadKernelRows_badOperand _ hk bad)⟩,
    fun h k first count cs s hk h1 h4 hl hc hf rd => ⟨fun busy => ?inUse, fun free => ?written⟩⟩
  all_goals have own := own_loadKernelRows_ok (s := s.handed h) (h := h) (askOf h (.loadKernelRows h k first count cs) .device) hk ⟨h1, h4, hl, hc, hf⟩
  case inUse => exact exec_of_own rd (own.trans (if_pos busy))
  case written =>
    obtain ⟨state, inUse, rows⟩ := loading_fixed (s.kernel k)
    obtain ⟨state', inUse'⟩ := writeRows_fixed (s.kernel k).loading first cs count
    refine ⟨(s.kernel k).loading.writeRows first count cs, ?_, state'.trans state, inUse'.trans inUse, fun j hj => ?_, fun p hp => ?_,
      fun p _ => ?_⟩
    · refine exec_of_own rd (own.trans ((if_neg free).trans ?_))
      show State.reply _ _ _ [wordNat ((s.kernel k).loading.writeRows first count cs).state.num, _] = _
      rw [state', state, List.countP_eq_length_filter]
      rfl
    · rw [row_writeRows, if_pos (by omega), Nat.add_sub_cancel_left]
    · rw [row_writeRows, if_neg (by omega), rows]
    · rw [written_writeRows _ _ _ hf, written_loading]

section
variable {s : State} {h : Hdr} (a : Ask) {k : Nat}

theorem firstMissing_eq_some {x : KernelSet} {p : Nat} (hp : p ≤ 64) (clear : x.written.getLsbD p = false)
    (before : ∀ q, q < p → x.written.getLsbD q = true) : x.firstMissing = some p := by
  rw [KernelSet.firstMissing, List.find?_range_eq_some]
  exact ⟨by simp [clear], List.mem_range.2 (by omega), fun q hq => by simp [before q hq]⟩

theorem firstMissing_eq_none {x : KernelSet} (all : ∀ q, q ≤ 64 → x.written.getLsbD q = true) : x.firstMissing = none := by
  rw [KernelSet.firstMissing, List.find?_range_eq_none]
  exact fun q hq => by simp [all q (by omega)]

theorem firstBadGain_eq_some {x : KernelSet} {p : Nat} (hp : p ≤ 64) (bad : (x.row p).sum < 32704 ∨ 32832 < (x.row p).sum)
    (before : ∀ q, q < p → 32704 ≤ (x.row q).sum ∧ (x.row q).sum ≤ 32832) : x.firstBadGain = some p := by
  rw [KernelSet.firstBadGain, List.find?_range_eq_some]
  refine ⟨decide_eq_true bad, List.mem_range.2 (by omega), fun q hq => ?_⟩
  rw [decide_eq_false (by have := before q hq; omega)]; rfl

theorem firstBadGain_eq_none {x : KernelSet} (all : ∀ q, q ≤ 64 → 32704 ≤ (x.row q).sum ∧ (x.row q).sum ≤ 32832) :
    x.firstBadGain = none := by
  rw [KernelSet.firstBadGain, List.find?_range_eq_none]
  refine fun q hq => ?_
  rw [decide_eq_false (by have := all q (by omega); omega)]; rfl

/-- VALIDATE KERNEL SET on a set that exists, by the set's state. -/
theorem own_validateKernelSet (hk : k ≤ 3) :
    s.own (.validateKernelSet h k) a =
      match (s.kernel k).state with
      | .ready => s.reply a .ok []
      | .empty => s.refuse a .incomplete [0, 0]
      | .loading =>
        match (s.kernel k).firstMissing with
        | some p => s.refuse a .incomplete [wordNat p, wordNat (s.kernel k).writtenCount]
        | none =>
          match (s.kernel k).firstBadGain with
          | some p => s.refuse a .dcGain [wordNat p, wordInt ((s.kernel k).row p).sum]
          | none => (s.setKernel k { s.kernel k with state := .ready }).reply a .ok [] := if_neg (Nat.not_lt.2 hk)

end

/-- Settles O15: the owner's rule by the set's state; the rows named are the lowest, which `find?` over the rows gives. -/
theorem kernelSetsAreValidated : Obligations.KernelSetsAreValidated := by
  refine ⟨fun h k s hk rd => exec_of_own rd (if_pos hk), fun h k s hk rd => ?_⟩
  have own := own_validateKernelSet (s := s.handed h) (h := h) (askOf h (.validateKernelSet h k) .device) hk
  refine ⟨fun hs => exec_of_own rd ?_, fun hs => exec_of_own rd ?_, fun p hs hp clear before => exec_of_own rd ?_,
    fun p hs all hp bad before => exec_of_own rd ?_, fun hs all good => exec_of_own rd ?_⟩
  all_goals refine own.trans ?_
  all_goals rw [show ((s.handed h).kernel k) = s.kernel k from rfl, hs]
  · dsimp only; rw [firstMissing_eq_some hp clear before]
  · dsimp only; rw [firstMissing_eq_none all, firstBadGain_eq_some hp bad before]
  · dsimp only; rw [firstMissing_eq_none all, firstBadGain_eq_none good]

end Sys2Proof.Machine

/-! PROOFS. The rate converter's arithmetic (file 02) and the feed unit (file 03): retuning, flow control, READ FEED and ACK FEED
EVENTS, sticky events, admitted frames, and the ring buffer. -/

namespace Sys2Proof.Machine

/-! ### The device handed to an owner -/

section
variable (s : State) (h : Hdr)

@[simp] theorem feed_handed : (s.handed h).feed = s.feed := rfl
@[simp] theorem kernel_handed : (s.handed h).kernel = s.kernel := rfl
@[simp] theorem bus_handed : (s.handed h).bus = s.bus := rfl

end

/-! ### Arithmetic (R24, R25, R34, R41 to R43) -/

/-- Two lists of `n` zipped, place by place. -/
theorem zipWith_eq_map_range {α β γ : Type} (f : α → β → γ) (d : α) (d' : β) {n : Nat} {as : List α} {bs : List β}
    (ha : as.length = n) (hb : bs.length = n) :
    List.zipWith f as bs = (List.range n).map fun t => f (as.getD t d) (bs.getD t d') := by
  apply List.ext_getElem
  · simp [ha, hb]
  · intro t h _
    have hl : t < as.length ∧ t < bs.length := by simpa using h
    rw [List.getElem_zipWith, List.getElem_map, List.getElem_range, List.getD_eq_getElem _ _ hl.1, List.getD_eq_getElem _ _ hl.2]

theorem taps_eq {k : KernelSet} {pos : Nat} (h : (k.row (pos / 262144)).length = 16) (h' : (k.row (pos / 262144 + 1)).length = 16) :
    k.taps pos =
      (List.range 16).map fun t =>
        (k.row (pos / 262144)).getD t 0 +
          ((k.row (pos / 262144 + 1)).getD t 0 - (k.row (pos / 262144)).getD t 0) * (pos % 262144 : Nat) / 262144 :=
  zipWith_eq_map_range (fun (a b : Int) => a + (b - a) * (pos % 262144 : Nat) / 262144) 0 0 h h'

theorem filterOutput_eq {k : KernelSet} {pos : Nat} {hist : List Sample} (h : (k.row (pos / 262144)).length = 16)
    (h' : (k.row (pos / 262144 + 1)).length = 16) (hh : hist.length = 16) :
    filterOutput k pos hist =
      (((List.range 16).map fun t =>
          ((k.row (pos / 262144)).getD t 0 +
            ((k.row (pos / 262144 + 1)).getD t 0 - (k.row (pos / 262144)).getD t 0) * (pos % 262144 : Nat) / 262144) *
          (hist.getD t 0).toInt).sum + 16384) / 32768 := by
  unfold filterOutput
  rw [zipWith_eq_map_range (fun c (x : Sample) => c * x.toInt) 0 0 (by rw [taps_eq h h']; simp) hh, taps_eq h h']
  refine congrArg (fun l : List Int => (l.sum + 16384) / 32768) (List.map_congr_left fun t ht => ?_)
  have ht := List.mem_range.1 ht
  rw [List.getD_eq_getElem _ _ (by simpa using ht), List.getElem_map, List.getElem_range]

/-- Settles O16: the tables by evaluation; servo, bus and saturation as they are defined; the filter's sum place by place. -/
theorem arithmeticFollowsTheManual : Obligations.ArithmeticFollowsTheManual := by
  refine ⟨⟨by decide, by decide⟩, fun x => rfl, fun k pos hist h h' hh => filterOutput_eq h h' hh, fun b acc y => ?bus,
    fun x => ?saturate⟩
  case bus => refine ⟨fun hm => ?_, fun hm => ?_, fun hm => ?_⟩ <;> rw [Bus.mixed, hm]
  case saturate => unfold saturate24; omega

/-! ### RETUNE FEED and SET FEED TARGET (R69, R70) -/

section
variable {s : State} {h : Hdr} (a : Ask) {f rate : Nat} {set : Option Nat}

theorem own_retuneFeed_badFeed (hf : 127 < f) : s.own (.retuneFeed h f rate set) a = s.refuse a .badIndex [] := if_pos hf

theorem own_retuneFeed_badRate (hf : f ≤ 127) (hr : 3 < rate) : s.own (.retuneFeed h f rate set) a = s.refuse a .badOperand [] :=
  (if_neg (Nat.not_lt.2 hf)).trans (if_pos hr)

theorem setKnown_iff : (set.any fun k => decide (3 < k)) = true ↔ ¬ ∀ k, set = some k → k ≤ 3 := by
  cases set <;> simp

/-- With the operands in order, the checks of the device. -/
theorem own_retuneFeed_known (hf : f ≤ 127) (hr : rate ≤ 3) (hk : ∀ k, set = some k → k ≤ 3) :
    s.own (.retuneFeed h f rate set) a =
      if (s.feed f).state = .closed then s.refuse a .feedClosed []
      else if (set.any fun k => !s.kernelReady k) = true then s.refuse a .noKernel []
      else
        (s.retune f rate (set.getD (s.feed f).kernel)).reply a .ok
          [wordNat (nominalStep rate s.houseRate), wordNat (set.getD (s.feed f).kernel)] :=
  (if_neg (Nat.not_lt.2 hf)).trans ((if_neg (Nat.not_lt.2 hr)).trans (if_neg fun hn => setKnown_iff.1 hn hk))

theorem own_retuneFeed_badSet (hf : f ≤ 127) (hr : rate ≤ 3) (hk : ¬ ∀ k, set = some k → k ≤ 3) :
    s.own (.retuneFeed h f rate set) a = s.refuse a .badIndex [] :=
  (if_neg (Nat.not_lt.2 hf)).trans ((if_neg (Nat.not_lt.2 hr)).trans (if_pos (setKnown_iff.2 hk)))

/-- An open feed retuned to a READY set, or with its own. -/
theorem own_retuneFeed_open (hf : f ≤ 127) (hr : rate ≤ 3) (hk : ∀ k, set = some k → k ≤ 3 ∧ (s.kernel k).state = .ready)
    (ho : (s.feed f).state ≠ .closed) :
    s.own (.retuneFeed h f rate set) a =
      (s.retune f rate (set.getD (s.feed f).kernel)).reply a .ok
        [wordNat (nominalStep rate s.houseRate), wordNat (set.getD (s.feed f).kernel)] := by
  refine (own_retuneFeed_known a hf hr fun k e => (hk k e).1).trans ((if_neg ho).trans (if_neg ?_))
  cases set with
  | none => simp
  | some k => simp [State.kernelReady, (hk k rfl).2]

theorem retune_same (f rate : Nat) :
    s.retune f rate (s.feed f).kernel =
      s.setFeed f
        { s.feed f with
          rateCode := rate, nominal := nominalStep rate s.houseRate, correction := 0, integrator := 0,
          step := nominalStep rate s.houseRate } := by
  unfold State.retune State.moveInUse
  dsimp only
  rw [if_pos rfl]
  rfl

/-- A retune to another set lowers one in-use count and raises the other (R32). -/
theorem retune_other (f rate : Nat) {k : Nat} (hk : k ≠ (s.feed f).kernel) :
    s.retune f rate k =
      ((s.setKernel (s.feed f).kernel
            { s.kernel (s.feed f).kernel with inUse := (s.kernel (s.feed f).kernel).inUse - 1 }).setKernel k
          { s.kernel k with inUse := (s.kernel k).inUse + 1 }).setFeed f
        { s.feed f with
          rateCode := rate, nominal := nominalStep rate s.houseRate, correction := 0, integrator := 0,
          step := nominalStep rate s.houseRate, kernel := k } := by
  have lowered : (s.lowerInUse (s.feed f).kernel).kernel k = s.kernel k := by
    rw [State.lowerInUse, kernel_setKernel, if_neg (Ne.symm hk)]
  unfold State.retune State.moveInUse
  dsimp only
  rw [if_neg (Ne.symm hk), State.raiseInUse, lowered]
  rfl

theorem own_setFeedTarget (hf : f ≤ 127) (ho : (s.feed f).state ≠ .closed) (target : Nat) :
    s.own (.setFeedTarget h f target) a =
      (s.setFeed f { s.feed f with target := clampTarget (s.feed f).capacity target }.resetServo).reply a .ok
        [wordNat (clampTarget (s.feed f).capacity target)] := (if_neg (Nat.not_lt.2 hf)).trans (if_neg ho)

end

/-- Settles O20: the refusals in the order of the owner's checks; the effect is `State.retune`, told for both cases of the set. -/
theorem retuneAndTargetResetTheServo : Obligations.RetuneAndTargetResetTheServo := by
  refine ⟨fun h f rate set s rd => ⟨fun hf => exec_of_own rd (own_retuneFeed_badFeed _ hf),
      fun hf hr => exec_of_own rd (own_retuneFeed_badRate _ hf hr), fun hf hr hk => exec_of_own rd (own_retuneFeed_badSet _ hf hr hk),
      fun hf hr hk hc => exec_of_own rd ((own_retuneFeed_known _ hf hr hk).trans (if_pos hc)),
      fun k hf hr hset hk ho hn => ?noKernel⟩,
    fun h f target s rd => ⟨fun hf => exec_of_own rd (if_pos hf),
      fun hf hc => exec_of_own rd ((if_neg (Nat.not_lt.2 hf)).trans (if_pos hc))⟩,
    fun h f s hf ho => ⟨fun rate set hr hset rd => ?same, fun rate k hr hk hne hready rd => ?other,
      fun target rd => exec_of_own rd (own_setFeedTarget (s := s.handed h) _ hf ho target)⟩⟩
  case noKernel =>
    subst hset
    refine exec_of_own rd ((own_retuneFeed_known _ hf hr (by simp [hk])).trans ((if_neg ho).trans (if_pos ?_)))
    exact congrArg not (decide_eq_false hn)
  case same =>
    have own : set.getD (s.feed f).kernel = (s.feed f).kernel := by rcases hset with rfl | ⟨rfl, -, -⟩ <;> rfl
    refine exec_of_own rd ((own_retuneFeed_open (s := s.handed h) _ hf hr ?_ ho).trans ?_)
    · rcases hset with rfl | ⟨rfl, hk, hready⟩
      · nofun
      · intro k e; cases e; exact ⟨hk, hready⟩
    · rw [feed_handed, own]
      exact congrArg (fun t : State => t.reply _ _ _) (retune_same (s := s.handed h) f rate)
  case other =>
    refine exec_of_own rd ((own_retuneFeed_open (s := s.handed h) _ hf hr ?_ ho).trans ?_)
    · intro j e; cases e; exact ⟨hk, hready⟩
    · rw [Option.getD_some, retune_other (s := s.handed h) f rate hne]
      rfl

/-! ### Flow control (R63 to R68, R177) -/

theorem capacity_eq (x : Feed) : x.capacity = 256 * x.pages.length := Nat.mul_comm ..

section
variable {s : State} {h : Hdr} (a : Ask) {f : Nat}

theorem own_holdFeed (hf : f ≤ 127) (ho : (s.feed f).state ≠ .closed) :
    s.own (.holdFeed h f) a =
      ((s.sendFlow f true).setFeed f { s.feed f with hold := true, paused := true, parity := false }).reply a .ok
        [wordNat (s.feed f).fill, wordBool (s.feed f).binding.isSome] := by
  refine (if_neg (Nat.not_lt.2 hf)).trans ((if_neg ho).trans ?_)
  unfold State.hold
  dsimp only
  rw [feed_sendFlow_all]

theorem own_releaseFeed (hf : f ≤ 127) (ho : (s.feed f).state ≠ .closed) :
    s.own (.releaseFeed h f) a =
      (s.release f).reply a .ok
        [wordNat (s.feed f).fill, wordBool ((s.feed f).paused && !(s.feed f).releases),
          wordBool ((s.feed f).releases && (s.feed f).binding.isSome)] :=
  (if_neg (Nat.not_lt.2 hf)).trans (if_neg ho)

theorem releases_iff {x : Feed} : x.releases = true ↔ x.paused = true ∧ ¬ (x.autoFlow = true ∧ x.critical = true) := by
  simp only [Feed.releases, Bool.and_eq_true, Bool.not_eq_true', ← Bool.not_eq_true]

theorem own_releaseFeed_resumes (hf : f ≤ 127) (ho : (s.feed f).state ≠ .closed) (hr : (s.feed f).releases = true) :
    s.own (.releaseFeed h f) a =
      ((s.sendFlow f false).setFeed f { s.feed f with hold := false, paused := false }).reply a .ok
        [wordNat (s.feed f).fill, 0, wordBool (s.feed f).binding.isSome] := by
  rw [own_releaseFeed a hf ho, State.release, if_pos hr, hr, Bool.not_true, Bool.and_false, Bool.true_and]
  dsimp only
  rw [feed_sendFlow_all]
  rfl

theorem own_releaseFeed_keeps (hf : f ≤ 127) (ho : (s.feed f).state ≠ .closed) (hr : (s.feed f).releases = false) :
    s.own (.releaseFeed h f) a =
      (s.setFeed f { s.feed f with hold := false }).reply a .ok [wordNat (s.feed f).fill, wordBool (s.feed f).paused, 0] := by
  rw [own_releaseFeed a hf ho, State.release, if_neg (by simp [hr]), hr, Bool.not_false, Bool.and_true, Bool.false_and]
  rfl

end

section
variable (s : State) (f : Nat)

/-- The arrival flow check, its conditions as propositions (R63, R64). -/
theorem arrivalFlow_eq :
    s.arrivalFlow f =
      let x := s.feed f
      let full := x.critical = true ∨ 3 * (256 * x.pages.length) / 4 ≤ x.fill
      let y := { x with critical := decide full }
      if x.hold = true ∨ (x.autoFlow = true ∧ full) then
        if x.paused = false then (s.sendFlow f true).setFeed f { y with paused := true, parity := false }
        else if x.parity = false then s.setFeed f { y with parity := true }
        else (s.sendFlow f true).setFeed f { y with parity := false }
      else s.setFeed f y := by
  unfold State.arrivalFlow
  dsimp only
  rw [capacity_eq]
  simp only [Bool.decide_or, Bool.decide_eq_true, Bool.or_eq_true, Bool.and_eq_true, decide_eq_true_iff, Bool.not_eq_true']

/-- The consumption flow check, its conditions as propositions (R63, R65). -/
theorem consumptionFlow_eq :
    s.consumptionFlow f =
      let x := s.feed f
      let still := x.critical = true ∧ 256 * x.pages.length / 2 ≤ x.fill
      if x.paused = true ∧ x.autoFlow = true ∧ x.hold = false ∧ ¬ still then
        (s.sendFlow f false).setFeed f { x with critical := false, paused := false }
      else s.setFeed f { x with critical := decide still } := by
  unfold State.consumptionFlow
  dsimp only
  rw [capacity_eq]
  have crit : ((s.feed f).critical && decide (256 * (s.feed f).pages.length / 2 ≤ (s.feed f).fill)) =
      decide ((s.feed f).critical = true ∧ 256 * (s.feed f).pages.length / 2 ≤ (s.feed f).fill) := by
    simp only [Bool.decide_and, Bool.decide_eq_true]
  rw [crit]
  simp only [Bool.and_eq_true, Bool.not_eq_true', decide_eq_false_iff_not, and_assoc]
  by_cases resumes : (s.feed f).paused = true ∧ (s.feed f).autoFlow = true ∧ (s.feed f).hold = false ∧
      ¬ ((s.feed f).critical = true ∧ 256 * (s.feed f).pages.length / 2 ≤ (s.feed f).fill)
  · rw [if_pos resumes, if_pos resumes, decide_eq_false resumes.2.2.2]
  · rw [if_neg resumes, if_neg resumes]

end

/-- In a queue whose first frame of stream `st` is `old`, that frame is the one that leaves. -/
theorem dropOldestOf_append {st : Nat} {old : FlowFrame} {r : List FlowFrame} (ho : old.stream = st) :
    ∀ {q : List FlowFrame}, (∀ g ∈ q, g.stream ≠ st) → dropOldestOf st (q ++ old :: r) = some (q ++ r)
  | [], _ => if_pos ho
  | g :: q, h => by
    rw [List.cons_append, dropOldestOf, if_neg (h g (by simp)), dropOldestOf_append ho fun x hx => h x (by simp [hx])]
    rfl

theorem dropOldestOf_none {st : Nat} : ∀ {q : List FlowFrame}, (∀ g ∈ q, g.stream ≠ st) → dropOldestOf st q = none
  | [], _ => rfl
  | g :: q, h => by
    rw [dropOldestOf, if_neg (h g (by simp)), dropOldestOf_none fun x hx => h x (by simp [hx])]
    rfl

section
variable {s : State} {l : Link} {fr : FlowFrame}

theorem handFlow_down (hu : s.linkUp l = false) : s.handFlow l fr = s := if_neg (by simp [hu])

/-- A flow frame handed to a link that is UP, by the room in its queue (R177). -/
theorem handFlow_up (hu : s.linkUp l = true) :
    s.handFlow l fr =
      if (s.arb l).flowQueue.length < 16 then s.setArb l { s.arb l with flowQueue := (s.arb l).flowQueue ++ [fr] }
      else
        match dropOldestOf fr.stream (s.arb l).flowQueue with
        | some q => s.setArb l { s.arb l with flowQueue := q ++ [fr] }
        | none => s.count l fun c => { c with controlDropped := inc32 c.controlDropped } := if_pos hu

variable {f : Nat} {pause : Bool}

theorem sendFlow_unbound (hb : (s.feed f).binding = none) : s.sendFlow f pause = s := by
  unfold State.sendFlow; dsimp only; rw [hb]

theorem sendFlow_bound {k : Link} {st : Nat} (hb : (s.feed f).binding = some (k, st)) :
    s.sendFlow f pause =
      s.handFlow (s.feed f).returnLink
        { pause := pause, stream := st, fill := (s.feed f).fill, capacity := 256 * (s.feed f).pages.length } := by
  unfold State.sendFlow; dsimp only; rw [hb, capacity_eq]

end

/-- Settles O21: the commands by the owner's rule, the flow checks by their conditions, and a flow frame by its way to the queue. -/
theorem holdAndReleaseSendFlow : Obligations.HoldAndReleaseSendFlow := by
  refine ⟨fun h f s hf ho => ⟨fun rd => exec_of_own rd (own_holdFeed (s := s.handed h) _ hf ho), fun rd hp hn => ?resumes,
      fun rd hk => ?keeps⟩,
    fun i h f s hi rd => ?refused, fun f s => ?arrival, fun f s => ?consumption, fun f pause s => ⟨sendFlow_unbound, ?flow⟩⟩
  case resumes => exact exec_of_own rd (own_releaseFeed_resumes (s := s.handed h) _ hf ho (releases_iff.2 ⟨hp, hn⟩))
  case keeps =>
    refine exec_of_own rd (own_releaseFeed_keeps (s := s.handed h) _ hf ho (Bool.eq_false_iff.2 fun hr => ?_))
    obtain ⟨hp, hn⟩ := releases_iff.1 hr
    exact hk.elim (fun e => Bool.false_ne_true (e.symm.trans hp)) hn
  case refused =>
    rcases hi with rfl | rfl <;>
      exact ⟨fun hf => exec_of_own rd (if_pos hf), fun hf hc => exec_of_own rd ((if_neg (Nat.not_lt.2 hf)).trans (if_pos hc))⟩
  case arrival =>
    rw [arrivalFlow_eq]
    refine ⟨fun hw => if_neg hw, fun hw hp => (if_pos hw).trans (if_pos hp), fun hw hp hq => (if_pos hw).trans ?_,
      fun hw hp hq => (if_pos hw).trans ?_⟩
    · exact (if_neg (by simp [hp])).trans (if_pos hq)
    · exact (if_neg (by simp [hp])).trans (if_neg (by simp [hq]))
  case consumption =>
    rw [consumptionFlow_eq]
    exact ⟨fun hr => if_pos hr, fun hr => if_neg hr⟩
  case flow =>
    intro l st hb
    rw [sendFlow_bound hb]
    refine ⟨handFlow_down, fun hu room => (handFlow_up hu).trans (if_pos room), fun q r old hu hq full ho first => ?_,
      fun hu full none => ?_⟩
    · refine (handFlow_up hu).trans ((if_neg ?_).trans ?_)
      · rw [hq, List.length_append, List.length_cons]; omega
      · rw [hq, dropOldestOf_append ho first]
    · refine (handFlow_up hu).trans ((if_neg (Nat.not_lt.2 full)).trans ?_)
      rw [dropOldestOf_none none]
      rfl

/-! ### READ FEED, ACK FEED EVENTS and sticky events (R71 to R73) -/

theorem feedPart?_none {n : Nat} (h : n = 0 ∨ 2 < n) : feedPart? n = none := by
  rcases h with rfl | h
  · rfl
  · obtain ⟨m, rfl⟩ := Nat.exists_eq_add_of_le' h; rfl

section
variable {s : State} {h : Hdr} (a : Ask) {f : Nat}

theorem own_readFeed_bad (hf : f ≤ 127) {n : Nat} (hn : n = 0 ∨ 2 < n) :
    s.own (.readFeed h f n) a = s.refuse a .badOperand [] := by
  refine (if_neg (Nat.not_lt.2 hf)).trans ?_
  rw [feedPart?_none hn]

theorem own_readFeed (hf : f ≤ 127) {n : Nat} {p : FeedPart} (hp : feedPart? n = some p) :
    s.own (.readFeed h f n) a = s.reply a .ok ((s.feed f).partWords p) := by
  refine (if_neg (Nat.not_lt.2 hf)).trans ?_
  rw [hp]

theorem own_ackFeedEvents_bad (hf : f ≤ 127) {n : Nat} (hn : 1 < n) :
    s.own (.ackFeedEvents h f n) a = s.refuse a .badOperand [] := by
  refine (if_neg (Nat.not_lt.2 hf)).trans ?_
  rw [onOff?_none hn]

theorem own_ackFeedEvents (hf : f ≤ 127) {n : Nat} {c : Bool} (hc : onOff? n = some c) :
    s.own (.ackFeedEvents h f n) a =
      (s.setFeed f ((s.feed f).acked c)).reply a .ok
        [(s.feed f).sticky.zeroExtend 32, wordNat (s.feed f).overflowCount, wordNat (s.feed f).underrunCount,
          wordNat (s.feed f).gapCount, wordNat (s.feed f).lateCount, wordNat (s.feed f).clipCount] := by
  refine (if_neg (Nat.not_lt.2 hf)).trans ?_
  rw [hc]

end

/-- The words of part STATUS, absent values and packed flags spelled out. -/
theorem Feed.statusWords_eq (x : Feed) :
    x.statusWords =
      [wordNat x.state.num, (match x.binding with | some (l, st) => wordNat (l.num * 65536 + st) | none => BitVec.allOnes 32),
        wordNat x.returnLink.num, wordNat x.pages.length, wordNat x.fill, wordNat x.readIndex, wordNat x.writeIndex,
        wordNat x.target] ++
      (match x.start with | some t => words48 t | none => [BitVec.allOnes 32, BitVec.allOnes 32]) ++
      [wordNat ((if x.autoFlow then 1 else 0) + (if x.hold then 2 else 0) + (if x.critical then 4 else 0) +
          (if x.paused then 8 else 0) + (if x.parity then 16 else 0)),
        (match x.expected with | some n => wordNat n | none => BitVec.allOnes 32), x.sticky.zeroExtend 32,
        wordNat x.overflowCount, wordNat x.underrunCount, wordNat x.gapCount, wordNat x.lateCount, wordNat x.clipCount,
        wordNat (x.rateCode + 4 * x.kernel), wordNat x.nominal, wordInt x.correction, wordInt x.integrator,
        wordInt x.step, wordNat x.position] := by
  have toNat_eq (b : Bool) (n : Nat) : n * b.toNat = if b then n else 0 := by cases b <;> simp
  unfold Feed.statusWords
  rw [toNat_eq, toNat_eq, toNat_eq, toNat_eq, ← Nat.one_mul x.autoFlow.toNat, toNat_eq]
  rfl

theorem stickyEvent_set {s : State} {f : Nat} {k : Sticky} {e : EventKind} {ws : List Word} (h : (s.feed f).hasSticky k = true) :
    s.stickyEvent f k e ws = s := if_pos h

theorem stickyEvent_clear {s : State} {f : Nat} {k : Sticky} {e : EventKind} {ws : List Word} (h : (s.feed f).hasSticky k = false) :
    s.stickyEvent f k e ws = (s.plainEvent e (.feed f) ws).setFeed f ((s.feed f).withSticky k) := if_neg (by simp [h])

/-- Settles O22: the refusals of the owner's checks, the flag numbers, the sticky rule over `State.offer`, and the words read. -/
theorem feedsAreReadAndAcknowledged : Obligations.FeedsAreReadAndAcknowledged := by
  refine ⟨fun i h f n s hi rd => ⟨fun hf => ?badFeed, fun hf bad => ?badOperand⟩, by decide,
    fun f k e ws s => ⟨fun hk => stickyEvent_set hk, fun hk room => ?enters, fun hk full => ?lost⟩,
    fun h f s hf => ⟨fun rd => ?status, fun rd => exec_of_own rd (own_readFeed (s := s.handed h) (p := .history) _ hf rfl),
      fun clear c hc rd => ?acked⟩⟩
  case badFeed => rcases hi with rfl | rfl <;> exact exec_of_own rd (if_pos hf)
  case badOperand =>
    rcases bad with ⟨rfl, hn⟩ | ⟨rfl, hn⟩
    · exact exec_of_own rd (own_readFeed_bad _ hf hn)
    · exact exec_of_own rd (own_ackFeedEvents_bad _ hf hn)
  case enters =>
    rw [stickyEvent_clear hk]
    exact congrArg (fun t : State => t.setFeed f _) (offer_enters _ room)
  case lost =>
    rw [stickyEvent_clear hk]
    exact congrArg (fun t : State => t.setFeed f _) (offer_loses _ full)
  case status =>
    refine (exec_of_own rd (own_readFeed _ hf rfl)).trans ?_
    rw [Feed.partWords, Feed.statusWords_eq]
    rfl
  case acked => exact exec_of_own rd (own_ackFeedEvents _ hf (onOff?_eq hc))

/-! ### The ring buffer (R39, R46, R80) -/

/-- Writing samples moves the write index and the fill of the feed, and leaves the rest of its record. -/
theorem feed_writeSamples_fixed (n : Nat) :
    ∀ (xs : List Sample) (s : State), ∃ w i, (s.writeSamples n xs).feed n = { s.feed n with writeIndex := w, fill := i }
  | [], s => ⟨_, _, rfl⟩
  | x :: xs, s => by
    obtain ⟨w, i, e⟩ := feed_writeSamples_fixed n xs (s.writeSample n x)
    refine ⟨w, i, e.trans ?_⟩
    rw [feed_writeSample_same]

/-- Settles O24: a write is one word and one feed record, a consumption one feed record. -/
theorem buffersAreRings : Obligations.BuffersAreRings := by
  intro n x s
  refine ⟨⟨s.writeSample n x, rfl, rfl, ?_, fun m hm => ?_, ?_, fun a ha => ?_⟩, ?_⟩
  · rw [feed_writeSample_same, capacity_eq]
  · exact (feed_setFeed ..).trans (if_neg (Ne.symm hm))
  · exact (word_setWord ..).trans (if_pos rfl)
  · exact (word_setWord ..).trans (if_neg (Ne.symm ha))
  · unfold State.consumeSample
    dsimp only
    rw [capacity_eq]
    rfl

/-! ### Admitted frames (R57 to R62) -/

section
variable {s : State} {l : Link} {fr : SampleFrame} {n : Nat}

/-- The samples of a frame come from the stream that the feed is bound to, or the feed is bound to none. -/
def Feed.accepts (x : Feed) (l : Link) (fr : SampleFrame) : Prop := x.binding = none ∨ x.binding = some (l, fr.stream)

/-- The feed takes frames in: it is PRIMING, RUNNING or STARVED. -/
def Feed.live (x : Feed) : Prop := x.state = .priming ∨ x.state = .running ∨ x.state = .starved

theorem not_conflict {x : Feed} (h : x.accepts l fr) : ¬ (x.binding.isSome ∧ x.binding ≠ some (l, fr.stream)) := by
  rcases h with h | h <;> simp [h]

theorem arrive_closed (h : (s.feed n).state = .closed) :
    s.arrive l fr n = s.count l fun c => { c with stray := inc32 c.stray } := if_pos h

theorem arrive_conflict {b : Link × Nat} (ho : (s.feed n).state ≠ .closed) (hb : (s.feed n).binding = some b)
    (hne : b ≠ (l, fr.stream)) :
    s.arrive l fr n =
      (s.count l fun c => { c with stray := inc32 c.stray }).stickyEvent n .streamConflict .streamConflict
        [wordBinding l fr.stream] := by
  refine (if_neg ho).trans (if_pos ?_)
  rw [hb]
  exact ⟨rfl, fun e => hne (Option.some.inj e)⟩

theorem arrive_draining (h : (s.feed n).state = .draining) (ha : (s.feed n).accepts l fr) :
    s.arrive l fr n = s.count l fun c => { c with drained := inc32 c.drained } :=
  (if_neg (by rw [h]; nofun)).trans ((if_neg (not_conflict ha)).trans (if_pos h))

theorem arrive_live (h : (s.feed n).live) (ha : (s.feed n).accepts l fr) :
    s.arrive l fr n =
      if fr.rateCode ≠ (s.feed n).rateCode then s.stickyEvent n .rateMismatch .rateMismatch [wordNat fr.rateCode]
      else s.sequenceCheck l fr n := by
  refine (if_neg ?_).trans ((if_neg (not_conflict ha)).trans (if_neg ?_)) <;> rcases h with h | h | h <;> rw [h] <;> nofun

/-- A frame of the feed's own rate goes to the sequence check. -/
theorem arrive_checked (h : (s.feed n).live) (ha : (s.feed n).accepts l fr) (hr : fr.rateCode = (s.feed n).rateCode) :
    s.arrive l fr n = s.sequenceCheck l fr n := (arrive_live h ha).trans (if_neg (not_not.2 hr))

/-- `d` is the distance from `e` to the sequence number `d` places after it (R59). -/
theorem sequenceDistance_eq {seq e d : Nat} (hd : d < 65536) (h : seq = (e + d) % 65536) :
    sequenceDistance seq e = d := by
  unfold sequenceDistance
  omega

theorem sequenceCheck_due (hd : (s.feed n).expected = none ∨ (s.feed n).expected = some fr.sequence) (hs : fr.sequence < 65536) :
    s.sequenceCheck l fr n = s.takeFrame l fr n := by
  unfold State.sequenceCheck
  rcases hd with hd | hd
  · rw [hd]
  · rw [hd]
    exact if_pos (sequenceDistance_eq (by omega) (by omega))

/-- With an expected sequence, the distance decides (R59 to R61). -/
theorem sequenceCheck_distance {e d : Nat} (hx : (s.feed n).expected = some e) (hd : sequenceDistance fr.sequence e = d) :
    s.sequenceCheck l fr n =
      if d = 0 then s.takeFrame l fr n
      else if d ≤ 8 then (s.conceal fr n d).takeFrame l fr n
      else if d ≤ 32767 then (s.resync n d).takeFrame l fr n
      else s.lateFrame fr n e := by
  subst hd
  unfold State.sequenceCheck
  rw [hx]

/-- A frame that fits is written, and binds a feed that is not yet bound (R58, R62). -/
theorem takeFrame_fits (hf : fr.samples.length ≤ (s.feed n).capacity - (s.feed n).fill) (ha : (s.feed n).accepts l fr) :
    s.takeFrame l fr n =
      ((s.writeSamples n fr.samples).setFeed n
        { (s.writeSamples n fr.samples).feed n with
          binding := some (l, fr.stream), expected := some ((fr.sequence + 1) % 65536) }).arrivalFlow n := by
  have bound : ((s.writeSamples n fr.samples).feed n).binding.or (some (l, fr.stream)) = some (l, fr.stream) := by
    obtain ⟨w, i, e⟩ := feed_writeSamples_fixed n fr.samples s
    rw [e]
    show (s.feed n).binding.or _ = _
    rcases ha with ha | ha <;> rw [ha] <;> rfl
  refine (if_pos hf).trans ?_
  dsimp only
  rw [bound]

theorem takeFrame_overflows (hf : (s.feed n).capacity - (s.feed n).fill < fr.samples.length) :
    s.takeFrame l fr n =
      ((s.setFeed n
          { s.feed n with
            overflowCount := add16 (s.feed n).overflowCount 1, expected := some ((fr.sequence + 1) % 65536) }).stickyEvent n
        .overflow .overflow [wordNat fr.samples.length, wordNat (s.feed n).fill]).arrivalFlow n :=
  if_neg (Nat.not_le.2 hf)

/-- A short gap: the zeros are written, then the gap is counted (R59). -/
theorem conceal_eq (d : Nat) :
    s.conceal fr n d =
      let v := s.writeSamples n (List.replicate (min (d * fr.samples.length) ((s.feed n).capacity - (s.feed n).fill)) 0)
      (v.setFeed n { v.feed n with gapCount := add16 (s.feed n).gapCount d }).stickyEvent n .gap .gap [wordNat d] := by
  unfold State.conceal
  dsimp only
  obtain ⟨w, i, e⟩ :=
    feed_writeSamples_fixed n (List.replicate (min (d * fr.samples.length) ((s.feed n).capacity - (s.feed n).fill)) 0) s
  rw [e]

end

/-- Settles O23: the checks of `State.arrive` in their order, then the sequence check by the distance. -/
theorem arrivalsAreCheckedAndWritten : Obligations.ArrivalsAreCheckedAndWritten := by
  refine ⟨fun l fr n s => ⟨arrive_closed, fun b ho hb hne => arrive_conflict ho hb hne, arrive_draining,
      fun live mine hr => (arrive_live live mine).trans (if_pos hr), fun live mine hr due hs fits => ?written,
      fun live mine hr due hs full => ?overflow⟩,
    fun l fr n e d s live mine hr hx he hd hseq => ?distance⟩
  case written => rw [arrive_checked live mine hr, sequenceCheck_due due hs, takeFrame_fits fits mine]
  case overflow => rw [arrive_checked live mine hr, sequenceCheck_due due hs, takeFrame_overflows full]; rfl
  case distance =>
    have checked := (arrive_checked live mine hr).trans (sequenceCheck_distance (l := l) hx (sequenceDistance_eq hd hseq))
    refine ⟨fun h1 h8 => ?_, fun h9 hr => ?_, fun hl => ?_⟩
    · rw [checked, if_neg (by omega), if_pos h8, conceal_eq]; rfl
    · rw [checked, if_neg (by omega), if_neg (by omega), if_pos hr]; rfl
    · rw [checked, if_neg (by omega), if_neg (by omega), if_neg (by omega)]; rfl

end Sys2Proof.Machine

/-! PROOFS. READ POOL (file 04) and the cue unit (file 05): the arrival of a timed command, the queue's commands, and the
application of cues at the first stage of an instant. -/

namespace Sys2Proof.Machine

/-! ### READ POOL (R83 to R85) -/

section
variable {s : State} {h : Hdr} {a : Ask} {part : Nat} {number : Option Nat}

theorem own_readPool_bad (hq : poolQuery? part number = none) :
    s.own (.readPool h part number) a = s.refuse a .badOperand [] := by
  show s.ownReadPool a part number = _
  rw [State.ownReadPool, hq]

theorem own_readPool {q : PoolQuery} (hq : poolQuery? part number = some q) :
    s.own (.readPool h part number) a = if q.inRange then s.reply a .ok (s.poolWords q) else s.refuse a .badIndex [] := by
  show s.ownReadPool a part number = _
  rw [State.ownReadPool, hq]

/-- A good query answers its words. -/
theorem exec_readPool (rd : s.Ready (.readPool h part number) h) {q : PoolQuery} {ws : List Word}
    (hq : poolQuery? part number = some q) (hr : q.inRange = true) (hw : s.poolWords q = ws) :
    exec (.readPool h part number) s =
      .next (((s.handed h).reply (askOf h (.readPool h part number) .device) .ok ws).settle) := by
  subst hw
  exact exec_of_own rd ((own_readPool hq).trans (if_pos hr))

theorem poolQuery?_none
    (bad : part = 0 ∨ 6 < part ∨ (part = 1 ∧ number ≠ none) ∨ (2 ≤ part ∧ part ≤ 6 ∧ number = none)) :
    poolQuery? part number = none := by
  rcases bad with rfl | hp | ⟨rfl, hn⟩ | ⟨h2, h6, rfl⟩
  · rfl
  · obtain ⟨k, rfl⟩ := Nat.exists_eq_add_of_le' hp
    rfl
  · obtain ⟨n, rfl⟩ := Option.ne_none_iff_exists'.1 hn
    rfl
  · obtain rfl | rfl | rfl | rfl | rfl : part = 2 ∨ part = 3 ∨ part = 4 ∨ part = 5 ∨ part = 6 := by omega
    all_goals rfl

/-- A number out of its range belongs to a query that R83's second check refuses. -/
theorem poolQuery?_outOfRange {n : Nat}
    (out : ((part = 2 ∨ part = 4) ∧ 127 < n) ∨ ((part = 3 ∨ part = 5) ∧ 63 < n) ∨ (part = 6 ∧ 511 < n)) :
    ∃ q, poolQuery? part (some n) = some q ∧ q.inRange = false := by
  rcases out with ⟨rfl | rfl, hn⟩ | ⟨rfl | rfl, hn⟩ | ⟨rfl, hn⟩
  · exact ⟨.feeds n, rfl, decide_eq_false (Nat.not_le.2 hn)⟩
  · exact ⟨.feedPages n, rfl, decide_eq_false (Nat.not_le.2 hn)⟩
  · exact ⟨.buses n, rfl, decide_eq_false (Nat.not_le.2 hn)⟩
  · exact ⟨.busPages n, rfl, decide_eq_false (Nat.not_le.2 hn)⟩
  · exact ⟨.page n, rfl, decide_eq_false (Nat.not_le.2 hn)⟩

theorem summaryWords_eq (s : State) :
    s.summaryWords =
      [wordNat s.freeList.length, wordNat ((List.range 128).map fun f => (s.feed f).pages.length).sum,
        wordNat ((List.range 64).map fun b => (s.bus b).pages.length).sum,
        wordNat ((List.range 128).filter fun f => decide ((s.feed f).state ≠ .closed)).length,
        wordNat ((List.range 64).filter fun b => decide ((s.bus b).pages ≠ [])).length,
        (match s.freeList.head? with | some p => wordNat p | none => BitVec.allOnes 32),
        (match s.freeList.getLast? with | some p => wordNat p | none => BitVec.allOnes 32)] := by
  simp only [State.summaryWords, List.countP_eq_length_filter]
  rfl

/-- The place of an entry is the number of entries before its first occurrence. -/
theorem idxOf_append_cons {n : Nat} {before : List Nat} (behind : List Nat) (hn : n ∉ before) :
    (before ++ n :: behind).idxOf n = before.length := by
  rw [List.idxOf_append_of_notMem hn, List.idxOf_cons_self, Nat.add_zero]

section
variable {n : Nat} {before behind : List Nat} (hn : n ∉ before)
include hn

theorem pageWords_free (ho : s.owner n = .free) (hl : s.freeList = before ++ n :: behind) :
    s.pageWords n = [0, BitVec.allOnes 32, wordNat before.length] := by
  rw [State.pageWords, ho, hl]
  show [_, _, wordNat (List.idxOf n _)] = _
  rw [idxOf_append_cons _ hn]; rfl

theorem pageWords_feed {f : Nat} (ho : s.owner n = .feed f) (hl : (s.feed f).pages = before ++ n :: behind) :
    s.pageWords n = [1, wordNat f, wordNat before.length] := by
  rw [State.pageWords, ho]
  show [_, _, wordNat (List.idxOf n (s.feed f).pages)] = _
  rw [hl, idxOf_append_cons _ hn]; rfl

theorem pageWords_bus {b : Nat} (ho : s.owner n = .bus b) (hl : (s.bus b).pages = before ++ n :: behind) :
    s.pageWords n = [2, wordNat b, wordNat before.length] := by
  rw [State.pageWords, ho]
  show [_, _, wordNat (List.idxOf n (s.bus b).pages)] = _
  rw [hl, idxOf_append_cons _ hn]; rfl

end

end

/-- Settles O25: each good part is one query, whose words are the obligation's. -/
theorem poolIsRead : Obligations.PoolIsRead := by
  intro h part number s rd u a answers
  refine ⟨?summary, fun n hp hn hr => ?feeds, fun n hp hn hr => ?buses, fun n hp hn hr => ?feedPages, fun n hp hn hr => ?busPages,
    fun n before behind hp hn hr hm => ?page, fun bad => ?bad, fun n hn out => ?outOfRange⟩
  case summary =>
    rintro rfl rfl
    exact exec_readPool (q := .summary) rd rfl rfl (summaryWords_eq s)
  case feeds => subst hp hn; exact exec_readPool (q := .feeds n) rd rfl (decide_eq_true hr) rfl
  case buses => subst hp hn; exact exec_readPool (q := .buses n) rd rfl (decide_eq_true hr) rfl
  case feedPages => subst hp hn; exact exec_readPool (q := .feedPages n) rd rfl (decide_eq_true hr) rfl
  case busPages => subst hp hn; exact exec_readPool (q := .busPages n) rd rfl (decide_eq_true hr) rfl
  case page =>
    subst hp hn
    have page {ws : List Word} (hw : s.pageWords n = ws) : answers ws :=
      exec_readPool (q := .page n) rd rfl (decide_eq_true hr) hw
    exact ⟨fun ho hl => page (pageWords_free hm ho hl), fun f ho hl => page (pageWords_feed hm ho hl),
      fun b ho hl => page (pageWords_bus hm ho hl)⟩
  case bad => exact exec_of_own rd (own_readPool_bad (poolQuery?_none bad))
  case outOfRange =>
    subst hn
    obtain ⟨q, hq, hr⟩ := poolQuery?_outOfRange out
    exact exec_of_own rd ((own_readPool hq).trans (if_neg (by simp [hr])))

/-! ### The arrival of a timed command (R87 to R92) -/

section
variable {s : State} {h : Hdr} {i : Instr} {t : Nat}

/-- A timed command that its link takes is the cue unit's. -/
theorem exec_of_timed {v : State} (tk : s.Takes i h) (hu : isUnknown i = false) (ht : h.timed = some t)
    (e : (s.handed h).cueArrival i h (BitVec.ofNat 48 t) = v) : exec i s = .next v.settle := by
  rw [exec_of_takes tk, State.take, if_neg (by simp [hu]), ht]
  exact congrArg (fun w : State => Host.Outcome.next w.settle) e

theorem cueArrival_role (A : Time) (hp : permitted (s.roles.get h.link) i = false) :
    s.cueArrival i h A = s.refuse (askOf h i .device) .notPermitted [] := if_pos (by simp [hp])

theorem cueArrival_config (A : Time) (hp : permitted (s.roles.get h.link) i = true) (he : s.engine = .config) :
    s.cueArrival i h A = s.refuse (askOf h i .device) .wrongState [] :=
  (if_neg (by simp [hp])).trans (if_pos (by rw [he]; nofun))

theorem cueArrival_run (A : Time) (hp : permitted (s.roles.get h.link) i = true) (he : s.engine = .run) :
    s.cueArrival i h A =
      match cueCommand? i with
      | none => s.refuse (askOf h i .device) .notCueable []
      | some c =>
        if !h.lenOk then s.refuse (askOf h i .device) .badOperand []
        else match s.cueRefusal c with
          | some st => s.refuse (askOf h i (subjectOf i)) st []
          | none => s.insertTimed (askOf h i (subjectOf i)) A c :=
  (if_neg (by simp [hp])).trans (if_neg (not_not.2 he))

section
variable {c : CueCommand} (A : Time) (hp : permitted (s.roles.get h.link) i = true) (he : s.engine = .run)
  (hc : cueCommand? i = some c)
include hp he hc

theorem cueArrival_badLength (hl : h.lenOk = false) : s.cueArrival i h A = s.refuse (askOf h i .device) .badOperand [] := by
  rw [cueArrival_run A hp he, hc]
  exact if_pos (by simp [hl])

theorem cueArrival_refused (hl : h.lenOk = true) {st : Status} (hr : s.cueRefusal c = some st) :
    s.cueArrival i h A = s.refuse (askOf h i (subjectOf i)) st [] := by
  rw [cueArrival_run A hp he, hc]
  refine (if_neg (by simp [hl])).trans ?_
  rw [hr]

theorem cueArrival_good (hl : h.lenOk = true) (hr : s.cueRefusal c = none) :
    s.cueArrival i h A = s.insertTimed (askOf h i (subjectOf i)) A c := by
  rw [cueArrival_run A hp he, hc]
  refine (if_neg (by simp [hl])).trans ?_
  rw [hr]

end

end

theorem onOff?_isNone_iff : ∀ {m : Nat}, (onOff? m).isNone = true ↔ 1 < m
  | 0 => by decide
  | 1 => by decide
  | m + 2 => iff_of_true rfl (by omega)

theorem busMode?_isNone_iff : ∀ {m : Nat}, (busMode? m).isNone = true ↔ m = 0 ∨ 3 < m
  | 0 => by decide
  | 1 => by decide
  | 2 => by decide
  | 3 => by decide
  | m + 4 => iff_of_true rfl (by omega)

theorem closeMode?_isNone_iff : ∀ {m : Nat}, (closeMode? m).isNone = true ↔ m ≠ 1 ∧ m ≠ 2
  | 0 => by decide
  | 1 => by decide
  | 2 => by decide
  | m + 3 => iff_of_true rfl (by omega)

theorem cueCommand?_iff (i : Instr) (c : CueCommand) :
    cueCommand? i = some c ↔
      (∃ h n t r, i = .setRouteGain h n t r ∧ c = .routeGain n t r) ∨ (∃ h b t, i = .setBusTrim h b t ∧ c = .busTrim b t) ∨
        (∃ h b m, i = .setBusMute h b m ∧ c = .busMute b m) ∨ (∃ h b m f, i = .setBusMode h b m f ∧ c = .busMode b m f) ∨
        ∃ h f m, i = .closeFeed h f m ∧ c = .closeFeed f m := by
  constructor
  · intro e
    unfold cueCommand? at e
    split at e <;> cases e
    · exact .inl ⟨_, _, _, _, rfl, rfl⟩
    · exact .inr (.inl ⟨_, _, _, rfl, rfl⟩)
    · exact .inr (.inr (.inl ⟨_, _, _, rfl, rfl⟩))
    · exact .inr (.inr (.inr (.inl ⟨_, _, _, _, rfl, rfl⟩)))
    · exact .inr (.inr (.inr (.inr ⟨_, _, _, rfl, rfl⟩)))
  · rintro (⟨_, _, _, _, rfl, rfl⟩ | ⟨_, _, _, rfl, rfl⟩ | ⟨_, _, _, rfl, rfl⟩ | ⟨_, _, _, _, rfl, rfl⟩ | ⟨_, _, _, rfl, rfl⟩) <;> rfl

/-- A cue goes behind every cue that is not later, and before every cue that is. -/
theorem insertCue_between (c : Cue) (behind : List Cue) (hb : ∀ d ∈ behind, c.time < d.time) :
    ∀ before : List Cue, (∀ d ∈ before, d.time ≤ c.time) → insertCue c (before ++ behind) = before ++ c :: behind
  | [], _ => by
    cases behind with
    | nil => rfl
    | cons d q => exact if_neg (BitVec.not_le.2 (hb d List.mem_cons_self))
  | d :: before, h => by
    refine (if_pos (h d List.mem_cons_self)).trans (congrArg (d :: ·) ?_)
    exact insertCue_between c behind hb before fun e he => h e (List.mem_cons_of_mem _ he)

section
variable {s : State} {A : Time}

theorem lateness_eq_zero_iff : s.lateness A = 0 ↔ s.horizon ≤ A := by
  rw [State.lateness, BitVec.le_def]; omega

theorem lateness_ne_zero (h : A < s.horizon) : s.lateness A ≠ 0 :=
  fun e => BitVec.not_lt.2 (lateness_eq_zero_iff.1 e) h

variable (a : Ask) (c : CueCommand)

theorem insertTimed_tooLate (h : s.lateTolerance < s.lateness A) :
    s.insertTimed a A c = s.refuse a .tooLate (words48 s.horizon ++ [wordNat (min (s.lateness A) 65535)]) := if_pos h

theorem insertTimed_full (h : s.lateness A ≤ s.lateTolerance) (hf : 256 ≤ s.cues.length) :
    s.insertTimed a A c = s.refuse a .queueFull [] := (if_neg (Nat.not_lt.2 h)).trans (if_pos hf)

theorem insertTimed_room (h : s.lateness A ≤ s.lateTolerance) (hf : s.cues.length < 256) :
    let kept := if s.lateness A = 0 then A else s.horizon
    s.insertTimed a A c =
      { s with cues := insertCue { time := kept, command := c, tag := a.tag, origin := a.link, acked := a.acked } s.cues }.reply a
        (if s.lateness A = 0 then .queued else .late) (words48 kept ++ [wordNat (s.lateness A), wordNat (s.cues.length + 1)]) :=
  (if_neg (Nat.not_lt.2 h)).trans (if_neg (Nat.not_le.2 hf))

theorem insertTimed_queued (h : s.horizon ≤ A) (hf : s.cues.length < 256) :
    s.insertTimed a A c =
      { s with cues := insertCue { time := A, command := c, tag := a.tag, origin := a.link, acked := a.acked } s.cues }.reply a
        .queued (words48 A ++ [0, wordNat (s.cues.length + 1)]) := by
  have h0 := lateness_eq_zero_iff.2 h
  rw [insertTimed_room a c (by omega) hf]
  simp only [h0, if_true]
  rfl

theorem insertTimed_late (h : A < s.horizon) (ht : s.lateness A ≤ s.lateTolerance) (hf : s.cues.length < 256) :
    s.insertTimed a A c =
      { s with
          cues := insertCue { time := s.horizon, command := c, tag := a.tag, origin := a.link, acked := a.acked } s.cues }.reply a
        .late (words48 s.horizon ++ [wordNat (s.lateness A), wordNat (s.cues.length + 1)]) := by
  rw [insertTimed_room a c ht hf]
  simp only [if_neg (lateness_ne_zero h)]

end

/-- Settles O26: the five kinds, their operand checks and the place of a cue one by one; an arrival by the checks of R87 in order,
then by its lateness. -/
theorem timedCommandsAreQueued : Obligations.TimedCommandsAreQueued := by
  refine ⟨cueCommand?_iff, fun s => ⟨fun n t r => rfl, fun b t => rfl, fun b m => ?mute, fun b m f => ?mode, fun f m => ?close⟩,
    fun c before behind hb hb' => insertCue_between c behind hb' before hb, fun i h t s tk hu ht => ?arrival⟩
  case mute => simp only [State.cueRefusal, onOff?_isNone_iff]
  case mode => simp only [State.cueRefusal, busMode?_isNone_iff, or_assoc]
  case close => simp only [State.cueRefusal, closeMode?_isNone_iff]
  case arrival =>
    refine ⟨fun hp => exec_of_timed tk hu ht (cueArrival_role _ hp), fun hp he => exec_of_timed tk hu ht (cueArrival_config _ hp he),
      fun hp he hc => ?notCueable, fun c hp he hc => ?cueable⟩
    case notCueable =>
      refine exec_of_timed tk hu ht ((cueArrival_run (s := s.handed h) _ hp he).trans ?_)
      rw [hc]
    case cueable =>
      refine ⟨fun hl => exec_of_timed tk hu ht (cueArrival_badLength _ hp he hc hl), fun st hl hr => ?refused, fun hl hr => ?good⟩
      case refused => exact exec_of_timed tk hu ht (cueArrival_refused (s := s.handed h) _ hp he hc hl (by cases c <;> exact hr))
      case good =>
        have hr' : (s.handed h).cueRefusal c = none := by cases c <;> exact hr
        have arrival {v : State}
            (e : (s.handed h).insertTimed (askOf h i (subjectOf i)) (BitVec.ofNat 48 t) c = v) : exec i s = .next v.settle :=
          exec_of_timed tk hu ht ((cueArrival_good (s := s.handed h) _ hp he hc hl hr').trans e)
        refine ⟨fun hv hf => arrival (insertTimed_queued _ c hv hf), fun hv ht hf => arrival (insertTimed_late _ c hv ht hf),
          fun hv ht => arrival (insertTimed_tooLate _ c ht), fun hv hf => arrival (insertTimed_full _ c ?_ hf)⟩
        exact hv.elim (fun hv => (lateness_eq_zero_iff (s := s.handed h).2 hv).trans_le (Nat.zero_le _)) id

/-! ### CANCEL CUES, READ CUES and SET LATE TOLERANCE (R93, R98, R99) -/

theorem own_readCues (s : State) (h : Hdr) (a : Ask) :
    s.own (.readCues h) a =
      s.reply a .ok
        (wordNat s.cues.length ::
          ((match s.cues with | c :: _ => words48 c.time | [] => [BitVec.allOnes 32, BitVec.allOnes 32]) ++
            [wordNat (s.cues.filter fun c => decide (c.origin = .l0)).length,
              wordNat (s.cues.filter fun c => decide (c.origin = .l1)).length, wordNat s.lateTolerance])) := by
  show s.ownReadCues a = _
  rw [State.ownReadCues, List.countP_eq_length_filter, List.countP_eq_length_filter]
  cases s.cues <;> rfl

/-- Settles O27: each command's rule says what the obligation says of it. -/
theorem cueQueueCommandsAct : Obligations.CueQueueCommandsAct := fun _ _ =>
  ⟨fun _ rd => exec_of_own rd rfl, fun rd => exec_of_own rd (own_readCues ..), fun _ rd => exec_of_own rd rfl⟩

/-! ### The application of cues (R94 to R96) -/

section
variable {s : State} {c : Cue}

theorem inInstant_between (hi : s.instant = none) :
    s.inInstant =
      { (s.cues.filter fun (c : Cue) => decide (c.time ≤ s.houseTime)).foldl State.applyCue
            { s with cues := s.cues.filter fun (c : Cue) => !decide (c.time ≤ s.houseTime) } with
          instant := some InstantWork.initial } :=
  if_neg (by simp [hi])

section
variable {i T L : Nat} (hc : c.command = .routeGain i T L)
include hc

theorem applyCue_blockedRoute (hb : s.routeInBlock i = true) :
    s.applyCue c = s.event .commandRefused c.tag .blockRange (.route i) [0x10] := by
  rw [State.applyCue, hc]
  exact if_pos hb

theorem applyCue_emptyRoute (hb : s.routeInBlock i = false) (hr : s.routeAt i = none) :
    s.applyCue c = s.targetGone c (.route i) := by
  rw [State.applyCue, hc]
  exact (if_neg (by simp [hb])).trans (if_pos (by simp [hr]))

theorem applyCue_route (hb : s.routeInBlock i = false) {r : Route} (hr : s.routeAt i = some r) :
    s.applyCue c = s.setEntry .route i (.route (r.setGain T L)) := by
  rw [State.applyCue, hc]
  refine (if_neg (by simp [hb])).trans ((if_neg (by simp [hr])).trans ?_)
  rw [State.applyRouteGain, hr]

end

theorem applyCue_closedFeed {f m : Nat} (hc : c.command = .closeFeed f m) (hf : (s.feed f).state = .closed) :
    s.applyCue c = s.targetGone c (.feed f) := by
  rw [State.applyCue, hc]
  exact if_pos hf

theorem applyCue_immediate {f : Nat} (hc : c.command = .closeFeed f 1) (hf : (s.feed f).state ≠ .closed) :
    s.applyCue c = s.closeFeed f := by
  rw [State.applyCue, hc]
  exact if_neg hf

theorem applyCue_drain {f : Nat} (hc : c.command = .closeFeed f 2) (hf : (s.feed f).state ≠ .closed) :
    s.applyCue c = (s.drainFeed f).drainEvent f (s.feed f).state := by
  rw [State.applyCue, hc]
  exact if_neg hf

/-- A drain of a feed with samples leaves it open, so it gives no event. -/
theorem drain_filled {f : Nat} (hd : (s.feed f).state ≠ .draining) (h0 : (s.feed f).fill ≠ 0) :
    (s.drainFeed f).drainEvent f (s.feed f).state = s.setFeed f { s.feed f with state := .draining, start := none } := by
  rw [drainFeed_filled hd h0, drainEvent_open (.inr (by rw [feed_setFeed_same]; nofun))]

theorem drain_empty {f : Nat} (hd : (s.feed f).state ≠ .draining) (h0 : (s.feed f).fill = 0) :
    (s.drainFeed f).drainEvent f (s.feed f).state = (s.closeFeed f).stickyEvent f .stateClosed .state [0, 0] := by
  rw [drainFeed_empty hd h0, drainEvent_closed hd (by rw [feed_closeFeed_same]; rfl), State.stateEvent, feed_closeFeed_same]
  rfl

end

/-- The event of a cue whose target is gone (R95), its code the command's. -/
theorem targetGone_eq (s : State) (c : Cue) (sub : Subject) :
    s.targetGone c sub =
      s.event .cueTargetGone c.tag .ok sub
        (wordNat c.command.code :: words48 c.time ++ [wordNat c.origin.num, if c.acked then 1 else 0]) := rfl

/-- Settles O28: the first stage of a new instant, and the cue's command case by case. -/
theorem cuesAreAppliedAtTheirTime : Obligations.CuesAreAppliedAtTheirTime := by
  refine ⟨fun s he hi => ?stage, fun c s => ⟨fun i T L hc => ⟨applyCue_blockedRoute hc, fun hb hr => ?emptyRoute, fun r hb hr => ?route⟩,
    fun b T hc => ?trim, fun b m on hc hm => ?mute, fun b m f md hc hm => ?mode,
    fun f m hc => ⟨fun hf => ?gone, fun hf hm => ?immediate, fun hf hd h0 hm => ?drains, fun hd hm => ?draining, fun hf hd h0 hm => ?empty⟩⟩⟩
  case stage =>
    refine congrArg Host.Outcome.next ((if_pos he).trans ?_)
    rw [inInstant_between hi]
  case emptyRoute =>
    rw [applyCue_emptyRoute hc hb hr, targetGone_eq, hc]
    rfl
  case route => rw [applyCue_route hc hb hr]; rfl
  case trim => rw [State.applyCue, hc]; rfl
  case mute => rw [State.applyCue, hc]; dsimp only; rw [hm]; rfl
  case mode => rw [State.applyCue, hc]; dsimp only; rw [hm]; rfl
  case gone =>
    rw [applyCue_closedFeed hc hf, targetGone_eq, hc]
    rfl
  case immediate => subst hm; exact applyCue_immediate hc hf
  case drains => subst hm; exact (applyCue_drain hc hf).trans (drain_filled hd h0)
  case draining =>
    subst hm
    rw [applyCue_drain hc (by simp [hd]), drainFeed_draining hd, drainEvent_open (.inl hd)]
  case empty => subst hm; exact (applyCue_drain hc hf).trans (drain_empty hd h0)

end Sys2Proof.Machine

/-! PROOFS. The classifier (file 06): its window and default-rule commands, and the decision for one sample frame. -/

namespace Sys2Proof.Machine

/-! ### Operands -/

theorem onOff?_le {n : Nat} {c : Bool} (h : onOff? n = some c) : n ≤ 1 :=
  Nat.le_of_not_lt fun hn => nomatch (onOff?_none hn).symm.trans h

theorem linkOfNat?_le {n : Nat} {l : Link} (h : Link.ofNat? n = some l) : n ≤ 1 :=
  Nat.le_of_not_lt fun hn => nomatch (Link.ofNat?_none hn).symm.trans h

theorem filter?_range : ∀ {n : Nat} {x : Filter}, filter? n = some x → 1 ≤ n ∧ n ≤ 3
  | 0, _, h => nomatch h
  | 1, _, _ | 2, _, _ | 3, _, _ => by decide
  | _ + 4, _, h => nomatch h

theorem verdict?_range : ∀ {n : Nat} {x : Verdict}, verdict? n = some x → n = 1 ∨ n = 2
  | 0, _, h => nomatch h
  | 1, _, _ | 2, _, _ => by decide
  | _ + 3, _, h => nomatch h

/-! ### Windows and default rules (R107, R108, R113) -/

section
variable {s : State} {h : Hdr} {a : Ask} {w en fl base mask tr dest cl link v feed : Nat}

/-- The operands of SET WINDOW are known and in range. -/
def windowOperandsOk (en fl base mask tr dest cl : Nat) : Prop :=
  en ≤ 1 ∧ 1 ≤ fl ∧ fl ≤ 3 ∧ base ≤ 4095 ∧ mask ≤ 4095 ∧ tr ≤ 4095 ∧ dest ≤ 1 ∧ cl ≤ 1

theorem own_setWindow_bad (hw : w ≤ 7) (bad : ¬ windowOperandsOk en fl base mask tr dest cl) :
    s.own (.setWindow h w en fl base mask tr dest cl) a = s.refuse a .badOperand [] := by
  refine (if_neg (Nat.not_lt.2 hw)).trans ?_
  split
  case h_1 on x l c he hf hd hc =>
    refine if_pos (by_contra fun wide => bad ?_)
    obtain ⟨h1, h3⟩ := filter?_range hf
    exact ⟨onOff?_le he, h1, h3, by omega, by omega, by omega, linkOfNat?_le hd, onOff?_le hc⟩
  case h_2 => rfl

theorem own_setWindow (hw : w ≤ 7) {on : Bool} {x : Filter} {l : Link} {c : Bool} (he : onOff? en = some on) (hf : filter? fl = some x)
    (hb : base ≤ 4095) (hm : mask ≤ 4095) (ht : tr ≤ 4095) (hd : Link.ofNat? dest = some l) (hc : onOff? cl = some c) :
    s.own (.setWindow h w en fl base mask tr dest cl) a =
      (s.setWindow w
        { enabled := on, filter := x, base := base, mask := mask, translate := tr, destination := l,
          hits := if c then 0 else (s.window w).hits, drops := if c then 0 else (s.window w).drops }).reply a .ok
        [wordNat (s.window w).hits, wordNat (s.window w).drops] := by
  refine (if_neg (Nat.not_lt.2 hw)).trans ?_
  rw [he, hf, hd, hc]
  refine (if_neg (by omega)).trans ?_
  cases c <;> rfl

theorem own_readWindow_bad (hw : w ≤ 7) (hc : 1 < cl) : s.own (.readWindow h w cl) a = s.refuse a .badOperand [] := by
  refine (if_neg (Nat.not_lt.2 hw)).trans ?_
  rw [onOff?_none hc]

theorem own_readWindow (hw : w ≤ 7) {c : Bool} (hc : onOff? cl = some c) :
    s.own (.readWindow h w cl) a =
      (s.setWindow w
        { s.window w with
          hits := if c then 0 else (s.window w).hits, drops := if c then 0 else (s.window w).drops }).reply a .ok
        (s.window w).words := by
  refine (if_neg (Nat.not_lt.2 hw)).trans ?_
  rw [hc]
  cases c <;> rfl

theorem own_setDefaultRule_badIndex (bad : 1 < link ∨ 127 < feed) :
    s.own (.setDefaultRule h link v feed cl) a = s.refuse a .badIndex [] := by
  show s.ownSetDefaultRule a link v feed cl = _
  unfold State.ownSetDefaultRule
  cases hl : Link.ofNat? link with
  | none => rfl
  | some l => exact if_pos (bad.resolve_left (Nat.not_lt.2 (linkOfNat?_le hl)))

theorem own_setDefaultRule_badOperand {l : Link} (hl : Link.ofNat? link = some l) (hf : feed ≤ 127)
    (bad : ¬ ((v = 1 ∨ v = 2) ∧ cl ≤ 1)) : s.own (.setDefaultRule h link v feed cl) a = s.refuse a .badOperand [] := by
  show s.ownSetDefaultRule a link v feed cl = _
  rw [State.ownSetDefaultRule, hl]
  refine (if_neg (Nat.not_lt.2 hf)).trans ?_
  split
  case h_1 c x hc hv => exact absurd ⟨verdict?_range hv, onOff?_le hc⟩ bad
  case h_2 => rfl

theorem own_setDefaultRule {l : Link} {x : Verdict} {c : Bool} (hl : Link.ofNat? link = some l) (hv : verdict? v = some x)
    (hf : feed ≤ 127) (hc : onOff? cl = some c) :
    s.own (.setDefaultRule h link v feed cl) a =
      { s with
        defaults := s.defaults.set l
          { verdict := x, feed := feed, hits := if c then 0 else (s.defaults.get l).hits } }.reply a .ok
        [wordNat (s.defaults.get l).hits] := by
  show s.ownSetDefaultRule a link v feed cl = _
  rw [State.ownSetDefaultRule, hl]
  refine (if_neg (Nat.not_lt.2 hf)).trans ?_
  rw [hc, hv]
  cases c <;> rfl

theorem own_readDefaultRule_badIndex (hl : 1 < link) : s.own (.readDefaultRule h link cl) a = s.refuse a .badIndex [] := by
  show s.ownReadDefaultRule a link cl = _
  rw [State.ownReadDefaultRule, Link.ofNat?_none hl]

theorem own_readDefaultRule_badOperand {l : Link} (hl : Link.ofNat? link = some l) (hc : 1 < cl) :
    s.own (.readDefaultRule h link cl) a = s.refuse a .badOperand [] := by
  show s.ownReadDefaultRule a link cl = _
  rw [State.ownReadDefaultRule, hl]
  dsimp only
  rw [onOff?_none hc]

theorem own_readDefaultRule {l : Link} {c : Bool} (hl : Link.ofNat? link = some l) (hc : onOff? cl = some c) :
    s.own (.readDefaultRule h link cl) a =
      { s with
        defaults := s.defaults.set l { s.defaults.get l with hits := if c then 0 else (s.defaults.get l).hits } }.reply a .ok
        [wordNat (s.defaults.get l).verdict.num, wordNat (s.defaults.get l).feed, wordNat (s.defaults.get l).hits] := by
  show s.ownReadDefaultRule a link cl = _
  rw [State.ownReadDefaultRule, hl]
  dsimp only
  rw [hc]
  cases c <;> rfl

end

theorem linkOfNat?_known {n : Nat} (hn : n ≤ 1) : ∃ l, Link.ofNat? n = some l := by
  obtain rfl | rfl : n = 0 ∨ n = 1 := by omega
  exacts [⟨.l0, rfl⟩, ⟨.l1, rfl⟩]

/-- Settles O29: the refusals command by command, then each command with good operands. -/
theorem windowsAndDefaultsAreSet : Obligations.WindowsAndDefaultsAreSet := by
  refine ⟨fun i h s rd => ⟨?setWindow, ?readWindow, ?setDefault, ?readDefault⟩, fun h s =>
    ⟨fun w en fl base mask tr dest cl on x l c hw he hf hb hm ht hd hc rd =>
      exec_of_own rd (own_setWindow (s := s.handed h) hw he hf hb hm ht hd hc),
    fun w cl c hw hc rd => exec_of_own rd (own_readWindow (s := s.handed h) hw hc),
    fun link v feed cl l x c hl hv hf hc rd => exec_of_own rd (own_setDefaultRule (s := s.handed h) hl hv hf hc),
    fun link cl l c hl hc rd => exec_of_own rd (own_readDefaultRule (s := s.handed h) hl hc)⟩⟩
  case setWindow =>
    rintro w en fl base mask tr dest cl rfl
    exact ⟨fun hw => exec_of_own rd (if_pos hw), fun hw bad => exec_of_own rd (own_setWindow_bad hw bad)⟩
  case readWindow =>
    rintro w cl rfl
    exact ⟨fun hw => exec_of_own rd (if_pos hw), fun hw hc => exec_of_own rd (own_readWindow_bad hw hc)⟩
  case setDefault =>
    rintro link v feed cl rfl
    refine ⟨fun bad => exec_of_own rd (own_setDefaultRule_badIndex bad), fun hl hf bad => ?_⟩
    obtain ⟨l, hl⟩ := linkOfNat?_known hl
    exact exec_of_own rd (own_setDefaultRule_badOperand hl hf bad)
  case readDefault =>
    rintro link cl rfl
    refine ⟨fun hl => exec_of_own rd (own_readDefaultRule_badIndex hl), fun hl hc => ?_⟩
    obtain ⟨l, hl⟩ := linkOfNat?_known hl
    exact exec_of_own rd (own_readDefaultRule_badOperand hl hc)

/-! ### Agreement where a mask cares (R104, R110) -/

theorem sameWhere_iff {care a b : Nat} :
    sameWhere care a b = true ↔ ∀ j, care.testBit j = true → a.testBit j = b.testBit j := by
  rw [sameWhere, decide_eq_true_iff]
  constructor
  · intro e j hj
    have bit := congrArg (·.testBit j) e
    simpa [hj] using bit
  · intro h
    apply Nat.eq_of_testBit_eq
    intro j
    by_cases hj : care.testBit j = true
    · simp [hj, h j hj]
    · simp [hj]

theorem admits_iff {x : Filter} {l : Link} :
    x.admits l = true ↔ x = .either ∨ (x = .link0 ∧ l = .l0) ∨ (x = .link1 ∧ l = .l1) := by
  cases x <;> simp [Filter.admits]

theorem takes_iff {w : Window} {l : Link} {st : Nat} :
    w.takes l st = true ↔
      w.enabled = true ∧ (w.filter = .either ∨ (w.filter = .link0 ∧ l = .l0) ∨ (w.filter = .link1 ∧ l = .l1)) ∧
        ∀ j, w.mask.testBit j = true → st.testBit j = w.base.testBit j := by
  rw [Window.takes, Bool.and_eq_true, Bool.and_eq_true, admits_iff, sameWhere_iff, and_assoc]

theorem rewrite_testBit {w : Window} {st : Nat} (hs : st < 4096) (j : Nat) :
    (w.rewrite st).testBit j = if w.mask.testBit j then w.translate.testBit j else st.testBit j := by
  have digits : (4095).testBit j = decide (j < 12) := Nat.testBit_two_pow_sub_one 12 j
  have high : st.testBit j = true → j < 12 := fun hj => by
    by_contra h
    rw [Nat.testBit_lt_two_pow (Nat.lt_of_lt_of_le hs (Nat.pow_le_pow_right (n := 2) (by decide) (Nat.not_lt.1 h)))] at hj
    cases hj
  rw [Window.rewrite, Nat.testBit_or, Nat.testBit_and, Nat.testBit_and, Nat.testBit_xor, digits]
  cases hm : w.mask.testBit j <;> cases hb : st.testBit j <;> simp [hb] at high ⊢
  · exact high
  · exact fun above => absurd high (Nat.not_lt.2 above)

/-! ### Rules that match (R110, R111) -/

section
variable {s : State} {l : Link} {fr : SampleFrame} {i : Nat}

theorem narrowMatches_iff {k : NarrowKey} :
    narrowMatches k l fr = true ↔
      (∀ j, k.linkC.testBit j = true → l.num.testBit j = k.linkV.testBit j) ∧
        (∀ j, k.streamC.testBit j = true → fr.stream.testBit j = k.streamV.testBit j) ∧
        ∀ j, k.classC.testBit j = true → fr.contentClass.testBit j = k.classV.testBit j := by
  rw [narrowMatches, Bool.and_eq_true, Bool.and_eq_true, sameWhere_iff, sameWhere_iff, sameWhere_iff, and_assoc]

theorem wideMatches_iff {k : WideKey} :
    wideMatches k fr = true ↔
      (∀ j, k.programC.testBit j = true → fr.program.testBit j = k.programV.testBit j) ∧
        (∀ j, k.languageC.testBit j = true → fr.language.testBit j = k.languageV.testBit j) ∧
        ∀ j, k.rateC.testBit j = true → fr.rateCode.testBit j = k.rateV.testBit j := by
  rw [wideMatches, Bool.and_eq_true, Bool.and_eq_true, sameWhere_iff, sameWhere_iff, sameWhere_iff, and_assoc]

theorem ruleMatches_narrow {r : Rule} (hr : s.entry .admission i = .narrow r) :
    s.ruleMatches l fr i = (r.active && narrowMatches r.key l fr) := by
  rw [State.ruleMatches, hr]

theorem ruleMatches_wide {r : Rule} {w : WideKey} (hr : s.entry .admission i = .wideHead r)
    (hw : s.entry .admission (i + 1) = .continuation w) :
    s.ruleMatches l fr i = (r.active && narrowMatches r.key l fr && wideMatches w fr) := by
  rw [State.ruleMatches, hr]
  dsimp only
  rw [hw]

theorem ruleMatches_none (h : s.entry .admission i = .empty ∨ ∃ w, s.entry .admission i = .continuation w) :
    s.ruleMatches l fr i = false := by
  rcases h with h | ⟨w, h⟩ <;> rw [State.ruleMatches, h]

end

/-! ### The decision for a frame (R101, R105, R112, R114) -/

/-- The search from the top finds the highest number that passes. -/
theorem find?_reverse_range {p : Nat → Bool} {i : Nat} (hp : p i = true) :
    ∀ {N : Nat}, i < N → (∀ j, i < j → j < N → p j = false) → (List.range N).reverse.find? p = some i
  | N + 1, hi, above => by
    rw [List.range_succ, List.reverse_append, List.reverse_singleton, List.singleton_append, List.find?_cons]
    rcases Nat.lt_or_eq_of_le (Nat.le_of_lt_succ hi) with h | rfl
    · rw [above N h N.lt_succ_self]
      exact find?_reverse_range hp h fun j hj hN => above j hj (Nat.lt_succ_of_lt hN)
    · rw [hp]

section
variable {s : State} {l : Link} {fr : SampleFrame}

theorem forward_joins {n : Nat} (hu : s.linkUp l = true) (hq : (s.arb l).passQueue.length < 32) :
    s.forward l n fr =
      s.setArb l { s.arb l with passQueue := (s.arb l).passQueue ++ [{ window := n, frame := fr }] } :=
  if_pos (by rw [hu, Bool.true_and]; exact decide_eq_true hq)

theorem forward_drops {n : Nat} (h : s.linkUp l = false ∨ 32 ≤ (s.arb l).passQueue.length) :
    s.forward l n fr = s.setWindow n { s.window n with drops := min ((s.window n).drops + 1) 4294967295 } := by
  refine if_neg ?_
  rw [Bool.and_eq_true, decide_eq_true_iff]
  rintro ⟨hu, hq⟩
  exact h.elim (fun h => by simp [hu] at h) fun h => Nat.not_lt.2 h hq

theorem classify_window {n : Nat} (hn : n ≤ 7) (ht : (s.window n).takes l fr.stream = true)
    (below : ∀ m, m < n → (s.window m).takes l fr.stream = false) : s.classify l fr = s.windowForward n fr := by
  have found : s.windowFor l fr.stream = some n :=
    List.find?_range_eq_some.2 ⟨ht, List.mem_range.2 (Nat.lt_succ_of_le hn), fun m hm => by simp [below m hm]⟩
  rw [State.classify, found]

section
variable (no : ∀ n, n ≤ 7 → (s.window n).takes l fr.stream = false)
include no

theorem windowFor_none : s.windowFor l fr.stream = none :=
  List.find?_range_eq_none.2 fun n hn => by simp [no n (Nat.le_of_lt_succ hn)]

theorem classify_config (he : s.engine = .config) :
    s.classify l fr = s.count l fun c => { c with engineStopped := min (c.engineStopped + 1) 4294967295 } := by
  rw [State.classify, windowFor_none no, he]
  rfl

theorem classify_run (he : s.engine = .run) : s.classify l fr = s.admission l fr := by
  rw [State.classify, windowFor_none no, he]

end

theorem lookup_highest {i : Nat} (hi : i < s.tableSize .admission) (hm : s.ruleMatches l fr i = true)
    (above : ∀ j, i < j → j < s.tableSize .admission → s.ruleMatches l fr j = false) : s.lookup l fr = some i :=
  find?_reverse_range hm hi above

theorem lookup_none (h : ∀ j, j < s.tableSize .admission → s.ruleMatches l fr j = false) : s.lookup l fr = none :=
  List.find?_eq_none.2 fun j hj => by simp [h j (by simpa using hj)]

theorem admission_rule {i : Nat} {r : Rule} (hl : s.lookup l fr = some i) (hr : (s.entry .admission i).rule? = some r) :
    s.admission l fr =
      (s.setEntry .admission i ((s.entry .admission i).withHits (add16 r.hits 1))).carryVerdict l fr r.verdict r.feed := by
  rw [State.admission, hl]
  dsimp only
  rw [hr]

theorem admission_default (hl : s.lookup l fr = none) :
    s.admission l fr =
      { s with
        defaults := s.defaults.set l
          { s.defaults.get l with hits := min ((s.defaults.get l).hits + 1) 4294967295 } }.carryVerdict l fr
        (s.defaults.get l).verdict (s.defaults.get l).feed := by
  rw [State.admission, hl]
  rfl

end

/-- Settles O30: the windows' digits, the pass queue, the rules' keys, the verdicts, and then the decision along its branches. -/
theorem framesAreClassified : Obligations.FramesAreClassified := by
  refine ⟨fun w l st => ⟨takes_iff, fun _ _ hs => rewrite_testBit hs⟩, fun l n fr s => ⟨forward_joins, forward_drops⟩,
    fun l fr i s => ⟨fun r hr => ?narrow, fun r w hr hw => ?wide, ruleMatches_none⟩, fun l fr f s => ⟨rfl, rfl⟩,
    fun l fr s => ⟨fun n hn ht below => classify_window hn ht below, classify_config, fun i r no he hi hm above hr => ?narrowRule,
      fun i r no he hi hm above hr => ?wideRule, fun no he none => ?default⟩⟩
  case narrow => rw [ruleMatches_narrow hr, Bool.and_eq_true, narrowMatches_iff]
  case wide => rw [ruleMatches_wide hr hw, Bool.and_eq_true, Bool.and_eq_true, narrowMatches_iff, wideMatches_iff]
  case narrowRule =>
    rw [classify_run no he, admission_rule (lookup_highest hi hm above) (r := r) (by rw [hr]; rfl), hr]
    rfl
  case wideRule =>
    rw [classify_run no he, admission_rule (lookup_highest hi hm above) (r := r) (by rw [hr]; rfl), hr]
    rfl
  case default => rw [classify_run no he, admission_default (lookup_none none)]

end Sys2Proof.Machine

/-! PROOFS. The table unit (file 07), one: banks, staging records, and WRITE ENTRY to the route table. -/

namespace Sys2Proof.Machine

/-! ### Operands of the table commands -/

theorem table?_none : ∀ {n : Nat}, n ≠ 1 → n ≠ 2 → table? n = none
  | 0, _, _ => rfl
  | 1, h, _ => absurd rfl h
  | 2, _, h => absurd rfl h
  | _ + 3, _, _ => rfl

theorem polarity?_none : ∀ {n : Nat}, n ≠ 1 → n ≠ 2 → polarity? n = none
  | 0, _, _ => rfl
  | 1, h, _ => absurd rfl h
  | 2, _, h => absurd rfl h
  | _ + 3, _, _ => rfl

theorem ruleState?_range : ∀ {n : Nat} {x : Bool}, ruleState? n = some x → n = 1 ∨ n = 2
  | 0, _, h => nomatch h
  | 1, _, _ | 2, _, _ => by decide
  | _ + 3, _, h => nomatch h

theorem ruleState?_known {n : Nat} (h : n = 1 ∨ n = 2) : ∃ x, ruleState? n = some x := by
  rcases h with rfl | rfl
  exacts [⟨true, rfl⟩, ⟨false, rfl⟩]

theorem verdict?_known {n : Nat} (h : n = 1 ∨ n = 2) : ∃ x, verdict? n = some x := by
  rcases h with rfl | rfl
  exacts [⟨.accept, rfl⟩, ⟨.discard, rfl⟩]

theorem narrowKeyFits_iff {k : NarrowKey} :
    narrowKeyFits k = true ↔
      k.linkV < 2 ∧ k.linkC < 2 ∧ k.streamV < 4096 ∧ k.streamC < 4096 ∧ k.classV < 16 ∧ k.classC < 16 := decide_eq_true_iff

theorem wideKeyFits_iff {k : WideKey} :
    wideKeyFits k = true ↔
      k.programV < 256 ∧ k.programC < 256 ∧ k.languageV < 256 ∧ k.languageC < 256 ∧ k.rateV < 4 ∧ k.rateC < 4 :=
  decide_eq_true_iff

/-! ### Banks (R119) -/

theorem bankTaken_iff {s : State} {b : Nat} : s.bankTaken b = true ↔ b ∈ s.admissionBanks ∨ b ∈ s.routeBanks := by
  rw [State.bankTaken, Bool.or_eq_true, List.contains_iff_mem, List.contains_iff_mem]

section
variable {s : State} {h : Hdr} {a : Ask} {b n : Nat} (he : s.engine = .config) (hb : b ≤ 15)
include he

theorem own_assignBank_badIndex (hb : 15 < b) : s.own (.assignBank h b n) a = s.refuse a .badIndex [] :=
  (if_neg (by rw [he]; nofun)).trans (if_pos hb)

include hb

theorem own_assignBank_badTable (h1 : n ≠ 1) (h2 : n ≠ 2) : s.own (.assignBank h b n) a = s.refuse a .badOperand [] := by
  refine (if_neg (by rw [he]; nofun)).trans ((if_neg (Nat.not_lt.2 hb)).trans ?_)
  rw [table?_none h1 h2]

theorem own_assignBank {t : TableId} (ht : table? n = some t) :
    s.own (.assignBank h b n) a =
      if s.bankTaken b then s.refuse a .bankTaken []
      else (s.addBank b t).reply a .ok [wordNat (s.tableSize t), wordNat (s.tableSize t + 128)] := by
  refine (if_neg (by rw [he]; nofun)).trans ((if_neg (Nat.not_lt.2 hb)).trans ?_)
  rw [ht]

theorem own_assignBank_taken (ht : n = 1 ∨ n = 2) (taken : b ∈ s.admissionBanks ∨ b ∈ s.routeBanks) :
    s.own (.assignBank h b n) a = s.refuse a .bankTaken [] := by
  rcases ht with rfl | rfl
  · exact (own_assignBank he hb (t := .admission) rfl).trans (if_pos (bankTaken_iff.2 taken))
  · exact (own_assignBank he hb (t := .route) rfl).trans (if_pos (bankTaken_iff.2 taken))

theorem own_assignBank_free {t : TableId} (ht : table? n = some t) (ha : b ∉ s.admissionBanks) (hr : b ∉ s.routeBanks) :
    s.own (.assignBank h b n) a =
      (s.addBank b t).reply a .ok [wordNat (s.tableSize t), wordNat (s.tableSize t + 128)] :=
  (own_assignBank he hb ht).trans (if_neg fun taken => (bankTaken_iff.1 taken).elim ha hr)

end

/-! ### Staging records (R120 to R122) -/

/-- The operands of STAGE RULE that R121's first two checks let through. -/
def ruleOperandsOk (kind st : Nat) (k : NarrowKey) (wide : Option WideKey) (v : Nat) : Prop :=
  ((kind = 1 ∧ wide = none) ∨
    (kind = 2 ∧ ∃ w, wide = some w ∧ w.programV < 256 ∧ w.programC < 256 ∧ w.languageV < 256 ∧ w.languageC < 256 ∧
      w.rateV < 4 ∧ w.rateC < 4)) ∧
  (st = 1 ∨ st = 2) ∧ (v = 1 ∨ v = 2) ∧ k.linkV < 2 ∧ k.linkC < 2 ∧ k.streamV < 4096 ∧ k.streamC < 4096 ∧
    k.classV < 16 ∧ k.classC < 16

section
variable {kind st v f : Nat} {k : NarrowKey} {wide : Option WideKey} {w : WideKey} {act : Bool} {x : Verdict}

theorem ruleImage?_narrow (hs : ruleState? st = some act) (hv : verdict? v = some x) (hk : narrowKeyFits k = true) :
    ruleImage? 1 st k none v f = some (.narrow act k x f) := by
  unfold ruleImage?
  rw [hs, hv]
  exact if_pos hk

theorem ruleImage?_wide (hs : ruleState? st = some act) (hv : verdict? v = some x) (hk : narrowKeyFits k = true)
    (hw : wideKeyFits w = true) : ruleImage? 2 st k (some w) v f = some (.wide act k w x f) := by
  unfold ruleImage?
  rw [hs, hv]
  exact if_pos (by rw [hk, hw]; rfl)

theorem ruleImage?_good (good : ruleOperandsOk kind st k wide v) : ∃ img, ruleImage? kind st k wide v f = some img := by
  obtain ⟨hkind, hs, hv, hk⟩ := good
  obtain ⟨act, hs⟩ := ruleState?_known hs
  obtain ⟨x, hv⟩ := verdict?_known hv
  rcases hkind with ⟨rfl, rfl⟩ | ⟨rfl, w, rfl, hw⟩
  · exact ⟨_, ruleImage?_narrow hs hv (narrowKeyFits_iff.2 hk)⟩
  · exact ⟨_, ruleImage?_wide hs hv (narrowKeyFits_iff.2 hk) (wideKeyFits_iff.2 hw)⟩

theorem ruleImage?_bad (bad : ¬ ruleOperandsOk kind st k wide v) : ruleImage? kind st k wide v f = none := by
  unfold ruleImage?
  split
  case h_1 act x hs hv =>
    refine if_neg fun hk => bad ?_
    exact ⟨.inl ⟨rfl, rfl⟩, ruleState?_range hs, verdict?_range hv, narrowKeyFits_iff.1 hk⟩
  case h_2 w act x hs hv =>
    refine if_neg fun hk => bad ?_
    obtain ⟨hk, hw⟩ := Bool.and_eq_true_iff.1 hk
    exact ⟨.inr ⟨rfl, w, rfl, wideKeyFits_iff.1 hw⟩, ruleState?_range hs, verdict?_range hv, narrowKeyFits_iff.1 hk⟩
  case h_3 => rfl

end

section
variable {s : State} {h : Hdr} {a : Ask} {kind st v f b p : Nat} {k : NarrowKey} {wide : Option WideKey}

theorem own_stageRule_bad (bad : ¬ ruleOperandsOk kind st k wide v) :
    s.own (.stageRule h kind st k wide v f) a = s.refuse a .badOperand [] := by
  show s.ownStageRule a kind st k wide v f = _
  rw [State.ownStageRule, ruleImage?_bad bad]

theorem own_stageRule {img : Image} (hi : ruleImage? kind st k wide v f = some img) :
    s.own (.stageRule h kind st k wide v f) a =
      if 127 < f then s.refuse a .badIndex [] else (s.stage a.link img).reply a .ok [wordNat img.kindNum] := by
  show s.ownStageRule a kind st k wide v f = _
  rw [State.ownStageRule, hi]

theorem own_stageRoute_badPolarity (hf : f ≤ 127) (hb : b ≤ 63) (h1 : p ≠ 1) (h2 : p ≠ 2) (g : Nat) :
    s.own (.stageRoute h f b p g) a = s.refuse a .badOperand [] := by
  refine (if_neg (by omega)).trans ?_
  rw [polarity?_none h1 h2]

theorem own_stageRoute (hf : f ≤ 127) (hb : b ≤ 63) {x : Polarity} (hp : polarity? p = some x) (g : Nat) :
    s.own (.stageRoute h f b p g) a = (s.stage a.link (.route f b x g)).reply a .ok [wordNat 3] := by
  refine (if_neg (by omega)).trans ?_
  rw [hp]

end

/-- Settles O31: the refusals command by command, then each command with good operands. -/
theorem banksAndImagesArePlaced : Obligations.BanksAndImagesArePlaced := by
  refine ⟨fun i h s rd => ⟨?assignBank, ?stageRule, ?stageRoute⟩, fun h s =>
    ⟨fun b hb ha hr he rd => exec_of_own rd (own_assignBank_free (s := s.handed h) he hb (t := .admission) rfl ha hr),
    fun b hb ha hr he rd => exec_of_own rd (own_assignBank_free (s := s.handed h) he hb (t := .route) rfl ha hr),
    fun st key v f act x hs hv hk hf rd =>
      exec_of_own rd ((own_stageRule (ruleImage?_narrow hs hv hk)).trans (if_neg (Nat.not_lt.2 hf))),
    fun st key w v f act x hs hv hk hw hf rd =>
      exec_of_own rd ((own_stageRule (ruleImage?_wide hs hv hk hw)).trans (if_neg (Nat.not_lt.2 hf))),
    fun f b p g x hf hb hp rd => exec_of_own rd (own_stageRoute hf hb hp g), fun rd => exec_of_own rd rfl⟩⟩
  case assignBank =>
    rintro b t rfl
    exact ⟨fun he => exec_of_own rd (if_pos he), fun he hb => exec_of_own rd (own_assignBank_badIndex (s := s.handed h) he hb),
      fun he hb h1 h2 => exec_of_own rd (own_assignBank_badTable (s := s.handed h) he hb h1 h2),
      fun he hb ht taken => exec_of_own rd (own_assignBank_taken (s := s.handed h) he hb ht taken)⟩
  case stageRule =>
    rintro kind st k wide v f rfl
    refine ⟨fun bad => exec_of_own rd (own_stageRule_bad bad), fun good hf => ?_⟩
    obtain ⟨img, hi⟩ := ruleImage?_good (f := f) good
    exact exec_of_own rd ((own_stageRule hi).trans (if_pos hf))
  case stageRoute =>
    rintro f b p g rfl
    exact ⟨fun bad => exec_of_own rd (if_pos bad),
      fun hf hb h1 h2 => exec_of_own rd (own_stageRoute_badPolarity hf hb h1 h2 g)⟩

/-! ### The checks of WRITE ENTRY (R123 to R125) -/

/-- The first three checks of WRITE ENTRY pass: the index lies in the table, the image belongs there, a wide one at an even index. -/
def State.Placed (u : State) (t : TableId) (i : Nat) (img : Image) : Prop :=
  i < u.tableSize t ∧ img.fits t = true ∧ (img.isWide = false ∨ i % 2 = 0)

theorem entrySubject_unknown {n : Nat} (h1 : n ≠ 1) (h2 : n ≠ 2) (i : Nat) : entrySubject n i = .device := by
  rw [entrySubject, table?_none h1 h2]

section
variable {s : State} {h : Hdr} {a : Ask} {n i : Nat}

theorem own_writeEntry_badTable (h1 : n ≠ 1) (h2 : n ≠ 2) : s.own (.writeEntry h n i) a = s.refuse a .badOperand [] := by
  show s.ownWriteEntry a n i = _
  rw [State.ownWriteEntry, table?_none h1 h2]

variable {t : TableId} {img : Image} (ht : table? n = some t) (hm : (s.between t).staging.get a.link = img)

include ht in
theorem own_writeEntry_badIndex (hi : (s.between t).tableSize t ≤ i) :
    s.own (.writeEntry h n i) a = (s.between t).refuse a .badIndex [] := by
  show s.ownWriteEntry a n i = _
  rw [State.ownWriteEntry, ht]
  exact if_pos hi

include ht hm

theorem own_writeEntry_inside (hi : i < (s.between t).tableSize t) :
    s.own (.writeEntry h n i) a =
      if !img.fits t then (s.between t).refuse a .wrongTable []
      else if img.isWide && decide (i % 2 = 1) then (s.between t).refuse a .badAlignment []
      else if (s.between t).locked t ((s.between t).touched t i img) then (s.between t).refuse a .blockRange []
      else if decide (img ≠ .empty) && ((s.between t).touched t i img).any ((s.between t).activeAt t) then
        (s.between t).refuse a .occupied []
      else if (s.between t).duplicates img then (s.between t).refuse a .duplicateRoute []
      else ((s.between t).putImage t i img).reply a .ok ((s.between t).writtenWords t i img) := by
  subst hm
  show s.ownWriteEntry a n i = _
  rw [State.ownWriteEntry, ht]
  exact if_neg (Nat.not_le.2 hi)

theorem own_writeEntry_wrongTable (hi : i < (s.between t).tableSize t) (hf : img.fits t = false) :
    s.own (.writeEntry h n i) a = (s.between t).refuse a .wrongTable [] :=
  (own_writeEntry_inside ht hm hi).trans (if_pos (by simp [hf]))

theorem own_writeEntry_misaligned (hi : i < (s.between t).tableSize t) (hf : img.fits t = true) (hw : img.isWide = true)
    (odd : i % 2 = 1) : s.own (.writeEntry h n i) a = (s.between t).refuse a .badAlignment [] :=
  (own_writeEntry_inside ht hm hi).trans ((if_neg (by simp [hf])).trans (if_pos (by simp [hw, odd])))

section
variable (hp : (s.between t).Placed t i img)
include hp

theorem own_writeEntry_placed :
    s.own (.writeEntry h n i) a =
      if (s.between t).locked t ((s.between t).touched t i img) then (s.between t).refuse a .blockRange []
      else if decide (img ≠ .empty) && ((s.between t).touched t i img).any ((s.between t).activeAt t) then
        (s.between t).refuse a .occupied []
      else if (s.between t).duplicates img then (s.between t).refuse a .duplicateRoute []
      else ((s.between t).putImage t i img).reply a .ok ((s.between t).writtenWords t i img) := by
  obtain ⟨hi, hf, even⟩ := hp
  refine (own_writeEntry_inside ht hm hi).trans ((if_neg (by simp [hf])).trans (if_neg ?_))
  rw [Bool.and_eq_true, decide_eq_true_iff]
  rintro ⟨hw, odd⟩
  rcases even with even | even
  · simp [even] at hw
  · omega

theorem own_writeEntry_locked (hl : (s.between t).locked t ((s.between t).touched t i img) = true) :
    s.own (.writeEntry h n i) a = (s.between t).refuse a .blockRange [] :=
  (own_writeEntry_placed ht hm hp).trans (if_pos hl)

variable (hl : (s.between t).locked t ((s.between t).touched t i img) = false)
include hl

theorem own_writeEntry_occupied (hx : img ≠ .empty) (ha : ((s.between t).touched t i img).any ((s.between t).activeAt t) = true) :
    s.own (.writeEntry h n i) a = (s.between t).refuse a .occupied [] :=
  (own_writeEntry_placed ht hm hp).trans ((if_neg (by simp [hl])).trans (if_pos (by simp [hx, ha])))

variable (hx : img = .empty ∨ ((s.between t).touched t i img).any ((s.between t).activeAt t) = false)
include hx

theorem own_writeEntry_free :
    s.own (.writeEntry h n i) a =
      if (s.between t).duplicates img then (s.between t).refuse a .duplicateRoute []
      else ((s.between t).putImage t i img).reply a .ok ((s.between t).writtenWords t i img) := by
  refine (own_writeEntry_placed ht hm hp).trans ((if_neg (by simp [hl])).trans (if_neg ?_))
  rcases hx with hx | hx <;> simp [hx]

theorem own_writeEntry_duplicate (hd : (s.between t).duplicates img = true) :
    s.own (.writeEntry h n i) a = (s.between t).refuse a .duplicateRoute [] :=
  (own_writeEntry_free ht hm hp hl hx).trans (if_pos hd)

theorem own_writeEntry (hd : (s.between t).duplicates img = false) :
    s.own (.writeEntry h n i) a =
      ((s.between t).putImage t i img).reply a .ok ((s.between t).writtenWords t i img) :=
  (own_writeEntry_free ht hm hp hl hx).trans (if_neg (by simp [hd]))

end

end

/-! ### One slot written -/

theorem slotKey_setEntry (s : State) (t u : TableId) (i j : Nat) (x : Slot) :
    (s.setEntry t i x).slotKey u j = s.slotKey u j := by cases u <;> rfl

theorem slot_setEntry (s : State) (t : TableId) (i k : Nat) (x : Slot) :
    (s.setEntry t i x).slot k = if s.slotKey t i = k then x else s.slot k := slot_setSlot ..

theorem entry_setEntry_self (s : State) (t : TableId) (i : Nat) (x : Slot) : (s.setEntry t i x).entry t i = x := by
  rw [State.entry, slotKey_setEntry, slot_setEntry, if_pos rfl]

/-! ### Routes (R125) -/

/-- A route image as the route it becomes. -/
def newRoute (f b : Nat) (p : Polarity) (g : Nat) : Route :=
  { feed := f, bus := b, polarity := p, current := g * 65536, target := g, remaining := 0, step := 0 }

section
variable {u : State} {i f b g : Nat} {p : Polarity}

theorem route_image_cases {img : Image}
    (h : ¬ ((∃ act k v f, img = .narrow act k v f) ∨ ∃ act k w v f, img = .wide act k w v f)) :
    img.fits .route = true ∧ img.isWide = false := by
  cases img with
  | empty | route => exact ⟨rfl, rfl⟩
  | narrow act k v f => exact absurd (.inl ⟨act, k, v, f, rfl⟩) h
  | wide act k w v f => exact absurd (.inr ⟨act, k, w, v, f, rfl⟩) h

theorem touched_route_active (img : Image) : (u.touched .route i img).any (u.activeAt .route) = (u.routeAt i).isSome :=
  Bool.or_false _

theorem routeJoins_iff :
    u.routeJoins f b = true ↔ ∃ j r, j < u.tableSize .route ∧ u.routeAt j = some r ∧ r.feed = f ∧ r.bus = b := by
  rw [State.routeJoins, List.any_eq_true]
  refine exists_congr fun j => ?_
  rw [List.mem_range]
  cases hr : u.routeAt j with
  | none => simp
  | some r => simp

theorem putImage_route :
    u.putImage .route i (.route f b p g) = (u.setEntry .route i .empty).setEntry .route i (.route (newRoute f b p g)) := rfl

theorem routeAt_putImage : (u.putImage .route i (.route f b p g)).routeAt i = some (newRoute f b p g) :=
  routeAt_iff.2 (by rw [putImage_route, entry_setEntry_self])

theorem slot_putImage_route {k : Nat} (hk : k ≠ u.slotKey .route i) :
    (u.putImage .route i (.route f b p g)).slot k = u.slot k := by
  rw [putImage_route, slot_setEntry, slotKey_setEntry, if_neg (Ne.symm hk), slot_setEntry, if_neg (Ne.symm hk)]

end

/-- Settles O32: the checks in their order, then the image's two kinds. -/
theorem routesAreWritten : Obligations.RoutesAreWritten := by
  refine ⟨fun h t i s h1 h2 rd => ?badTable, fun h i s rd => ⟨fun hi => ?badIndex, fun hi rule => ?wrongTable, fun hi rule hl => ?locked⟩,
    fun h i s rd hi hl => ⟨fun hm => ?deletes, fun f b p g hm hr => ?occupied, fun f b p g j r hm hr hj hq hf hb => ?duplicate,
      fun f b p g hm hr new => ?written⟩⟩
  case badTable =>
    have subject : subjectOf (.writeEntry h t i) = .device := entrySubject_unknown h1 h2 i
    refine exec_of_own rd ?_
    rw [subject]
    exact own_writeEntry_badTable h1 h2
  case badIndex => exact exec_of_own rd (own_writeEntry_badIndex (s := s.handed h) (t := .route) rfl hi)
  case wrongTable =>
    refine exec_of_own rd (own_writeEntry_wrongTable (s := s.handed h) (t := .route) rfl rfl hi ?_)
    rcases rule with ⟨act, k, v, f, hm⟩ | ⟨act, k, w, v, f, hm⟩ <;> exact congrArg (Image.fits · .route) hm
  case locked =>
    obtain ⟨hf, hw⟩ := route_image_cases rule
    exact exec_of_own rd (own_writeEntry_locked (s := s.handed h) (t := .route) rfl rfl ⟨hi, hf, .inl hw⟩ hl)
  case deletes =>
    exact exec_of_own rd (own_writeEntry (s := s.handed h) (t := .route) (img := .empty) rfl hm ⟨hi, rfl, .inl rfl⟩ hl (.inl rfl) rfl)
  case occupied =>
    refine exec_of_own rd (own_writeEntry_occupied (s := s.handed h) (t := .route) rfl hm ⟨hi, rfl, .inl rfl⟩ hl nofun ?_)
    exact (touched_route_active _).trans (Option.isSome_iff_ne_none.2 hr)
  case duplicate =>
    refine exec_of_own rd (own_writeEntry_duplicate (s := s.handed h) (t := .route) rfl hm ⟨hi, rfl, .inl rfl⟩ hl (.inr ?_) ?_)
    · exact (touched_route_active _).trans (Option.isSome_eq_false_iff.2 (Option.isNone_iff_eq_none.2 hr))
    · exact routeJoins_iff.2 ⟨j, r, hj, hq, hf, hb⟩
  case written =>
    refine ⟨(s.handedBetween h).putImage .route i (.route f b p g), exec_of_own rd ?_, routeAt_putImage, fun k hk => slot_putImage_route hk,
      onlySlots_putImage ..⟩
    refine own_writeEntry (s := s.handed h) (t := .route) rfl hm ⟨hi, rfl, .inl rfl⟩ hl (.inr ?_) ?_
    · exact (touched_route_active _).trans (Option.isSome_eq_false_iff.2 (Option.isNone_iff_eq_none.2 hr))
    · refine Bool.eq_false_iff.2 fun joined => ?_
      obtain ⟨j, r, hj, hq, hf, hb⟩ := routeJoins_iff.1 joined
      exact new j r hj hq ⟨hf, hb⟩

end Sys2Proof.Machine

/-! PROOFS. The table unit (file 07), two: the rules that hold a slot, the range lock, and WRITE ENTRY to the admission table. -/

namespace Sys2Proof.Machine

/-! ### The rule that holds a slot (R109, R111) -/

section
variable {s : State} {c j hd : Nat}

theorem ruleAt_empty (e : s.entry .admission c = .empty) : s.ruleAt c = none := by
  have index : s.ruleIndex c = c := by rw [State.ruleIndex, e]
  rw [State.ruleAt, index, e]

theorem ruleAt_narrow {r : Rule} (e : s.entry .admission c = .narrow r) : s.ruleAt c = some (c, r, none) := by
  have index : s.ruleIndex c = c := by rw [State.ruleIndex, e]
  rw [State.ruleAt, index, e]

theorem ruleAt_wide {r : Rule} {w : WideKey} (hc : c = hd ∨ c = hd + 1) (e : s.entry .admission hd = .wideHead r)
    (ew : s.entry .admission (hd + 1) = .continuation w) : s.ruleAt c = some (hd, r, some w) := by
  have index : s.ruleIndex c = hd := by
    rcases hc with rfl | rfl
    · rw [State.ruleIndex, e]
    · rw [State.ruleIndex, ew]; rfl
  rw [State.ruleAt, index, e]
  dsimp only
  rw [ew]

/-- What a rule found at a slot says of the entries. -/
theorem ruleAt_eq_some {r : Rule} {w : Option WideKey} (h : s.ruleAt c = some (hd, r, w)) :
    hd = s.ruleIndex c ∧
      ((s.entry .admission hd = .narrow r ∧ w = none) ∨
        ∃ k, s.entry .admission hd = .wideHead r ∧ s.entry .admission (hd + 1) = .continuation k ∧ w = some k) := by
  unfold State.ruleAt at h
  dsimp only at h
  split at h
  case h_1 e => cases h; exact ⟨rfl, .inl ⟨e, rfl⟩⟩
  case h_2 e =>
    split at h
    case h_1 k ek => cases h; exact ⟨rfl, .inr ⟨k, e, ek, rfl⟩⟩
    all_goals cases h
  all_goals cases h

theorem ruleIndex_le : s.ruleIndex c ≤ c := by
  unfold State.ruleIndex
  split
  · exact Nat.sub_le ..
  all_goals exact le_rfl

theorem ruleSlots_single (h : s.entry .admission c = .empty ∨ ∃ r, s.entry .admission c = .narrow r) : s.ruleSlots c = [c] := by
  rcases h with h | ⟨r, h⟩
  · rw [State.ruleSlots, ruleAt_empty h]
  · rw [State.ruleSlots, ruleAt_narrow h]

theorem ruleSlots_wide {r : Rule} {w : WideKey} (hc : c = hd ∨ c = hd + 1) (e : s.entry .admission hd = .wideHead r)
    (ew : s.entry .admission (hd + 1) = .continuation w) : s.ruleSlots c = [hd, hd + 1] := by
  rw [State.ruleSlots, ruleAt_wide hc e ew]

/-- Every slot of a rule names that rule. -/
theorem ruleAt_of_mem_ruleSlots (hj : j ∈ s.ruleSlots c) : s.ruleAt j = s.ruleAt c := by
  cases rule : s.ruleAt c with
  | none =>
    rw [State.ruleSlots, rule] at hj
    rw [List.mem_singleton.1 hj, rule]
  | some found =>
    obtain ⟨hd, r, w⟩ := found
    rcases (ruleAt_eq_some rule).2 with ⟨e, rfl⟩ | ⟨k, e, ek, rfl⟩
    · rw [State.ruleSlots, rule] at hj
      rw [List.mem_singleton.1 hj, ruleAt_narrow e]
    · rw [State.ruleSlots, rule] at hj
      exact ruleAt_wide (by simpa using hj) e ek

theorem head_mem_ruleSlots {r : Rule} {w : Option WideKey} (h : s.ruleAt c = some (hd, r, w)) : hd ∈ s.ruleSlots c := by
  rw [State.ruleSlots, h]
  cases w <;> exact List.mem_cons_self

/-- Both slots of a wide rule stand in one pair of slots, the first at an even index. -/
theorem ruleSlots_pair (h : s.RulesWhole) (hc : c < s.tableSize .admission) (hj : j ∈ s.ruleSlots c) : j / 2 = c / 2 := by
  obtain ⟨k, r, w, hck, even, -, -, -, slots, -⟩ | ⟨r, -, slots, -⟩ | ⟨-, slots, -⟩ := rule_cases s h hc <;>
    rw [slots] at hj <;> simp only [List.mem_cons, List.not_mem_nil, or_false] at hj <;> omega

end

/-! ### Touched slots (R123) -/

section
variable {s : State} {i j : Nat} {img : Image}

theorem mem_covers_iff {c : Nat} : c ∈ img.covers i ↔ c = i ∨ (img.isWide = true ∧ c = i + 1) := by
  unfold Image.covers
  cases img.isWide <;> simp

theorem mem_touched_iff :
    j ∈ s.touched .admission i img ↔
      ∃ c, (c = i ∨ (img.isWide = true ∧ c = i + 1)) ∧ (j = c ∨ j ∈ s.ruleSlots c) := by
  show j ∈ img.covers i ++ (img.covers i).flatMap s.ruleSlots ↔ _
  simp only [List.mem_append, List.mem_flatMap, ← mem_covers_iff, and_or_left, exists_or]
  exact or_congr_left ⟨fun h => ⟨j, h, rfl⟩, fun ⟨c, h, e⟩ => e ▸ h⟩

/-- The covered slots of a placed image lie in the table. -/
theorem covered_lt (hp : s.Placed .admission i img) {c : Nat} (hc : c = i ∨ (img.isWide = true ∧ c = i + 1)) :
    c < s.tableSize .admission := by
  obtain ⟨hi, -, even⟩ := hp
  rcases hc with rfl | ⟨hw, rfl⟩
  · exact hi
  · have := tableSize_even s .admission
    have := even.resolve_left (by simp [hw])
    omega

end

/-! ### The number of rules removed (R124) -/

section
variable {s : State} {hd i : Nat} {img : Image}

/-- A rule stands at index `hd`, as narrow or as a head with its continuation. -/
def State.ruleStands (s : State) (hd : Nat) : Bool :=
  match s.entry .admission hd, s.entry .admission (hd + 1) with
  | .narrow _, _ | .wideHead _, .continuation _ => true
  | _, _ => false

theorem ruleStands_iff : s.ruleStands hd = true ↔ ∃ r w, s.ruleAt hd = some (hd, r, w) := by
  constructor
  · unfold State.ruleStands
    split
    case h_1 r e => exact fun _ => ⟨r, none, ruleAt_narrow e⟩
    case h_2 r w e ew => exact fun _ => ⟨r, some w, ruleAt_wide (.inl rfl) e ew⟩
    case h_3 => nofun
  · rintro ⟨r, w, h⟩
    rcases (ruleAt_eq_some h).2 with ⟨e, -⟩ | ⟨k, e, ek, -⟩
    · rw [State.ruleStands, e]
    · rw [State.ruleStands, e, ek]

/-- The heads of the rules that hold touched slots are the touched slots at which a rule stands. -/
theorem head_touched_iff (hp : s.Placed .admission i img) :
    (∃ j ∈ s.touched .admission i img, (s.ruleAt j).map (·.1) = some hd) ↔
      hd < s.tableSize .admission ∧ hd ∈ s.touched .admission i img ∧ s.ruleStands hd = true := by
  constructor
  · rintro ⟨j, hj, head⟩
    obtain ⟨c, hc, hj⟩ := mem_touched_iff.1 hj
    have same : s.ruleAt j = s.ruleAt c := hj.elim (fun e => e ▸ rfl) ruleAt_of_mem_ruleSlots
    obtain ⟨⟨m, r, w⟩, rule, rfl⟩ := Option.map_eq_some_iff.1 (same ▸ head)
    have inside := head_mem_ruleSlots rule
    have below : m ≤ c := (ruleAt_eq_some rule).1 ▸ ruleIndex_le
    exact ⟨below.trans_lt (covered_lt hp hc), mem_touched_iff.2 ⟨c, hc, .inr inside⟩,
      ruleStands_iff.2 ⟨r, w, (ruleAt_of_mem_ruleSlots inside).trans rule⟩⟩
  · rintro ⟨-, hj, stands⟩
    obtain ⟨r, w, rule⟩ := ruleStands_iff.1 stands
    exact ⟨hd, hj, by rw [rule]; rfl⟩

theorem rulesIn_touched (hp : s.Placed .admission i img) :
    s.rulesIn (s.touched .admission i img) =
      ((List.range (s.tableSize .admission)).filter fun hd =>
        decide (hd ∈ s.touched .admission i img) && s.ruleStands hd).length := by
  refine List.Perm.length_eq ((List.perm_ext_iff_of_nodup (List.nodup_dedup _) (List.nodup_range.filter _)).2 fun hd => ?_)
  rw [List.mem_dedup, List.mem_filterMap, head_touched_iff hp, List.mem_filter, List.mem_range, Bool.and_eq_true,
    decide_eq_true_iff]

end

/-! ### The range lock (R138) -/

theorem mem_exemptSlots_iff {s : State} {b : Block} {j : Nat} :
    j ∈ s.exemptSlots b ↔
      ∃ r x ks, b.phase = .stopped r x ks ∧ (j ∈ ks ∨ (b.table = .admission ∧ ∃ c ∈ ks, j ∈ s.ruleSlots c)) := by
  unfold State.exemptSlots
  cases b.phase with
  | running | suspended => simp
  | stopped r x ks => cases b.table <;> simp

theorem inRange_iff {b : Block} {j : Nat} :
    b.inRange j = true ↔
      (b.first ≤ j ∧ j < b.first + b.count) ∨
        (b.kind = .move ∧ (b.first : Int) + b.offset ≤ j ∧ (j : Int) < (b.first : Int) + b.count + b.offset) := by
  rw [Block.inRange, Bool.or_eq_true]
  exact or_congr decide_eq_true_iff decide_eq_true_iff

theorem locked_iff {s : State} {t : TableId} {js : List Nat} :
    s.locked t js = true ↔
      ∃ b j, s.block = some b ∧ b.table = t ∧ j ∈ js ∧
        ((b.first ≤ j ∧ j < b.first + b.count) ∨
          (b.kind = .move ∧ (b.first : Int) + b.offset ≤ j ∧ (j : Int) < (b.first : Int) + b.count + b.offset)) ∧
        ¬ ∃ r x ks, b.phase = .stopped r x ks ∧ (j ∈ ks ∨ (t = .admission ∧ ∃ c ∈ ks, j ∈ s.ruleSlots c)) := by
  unfold State.locked
  cases s.block with
  | none => simp
  | some b =>
    simp only [Bool.and_eq_true, decide_eq_true_iff, List.any_eq_true, Bool.not_eq_true', List.contains_eq_mem,
      decide_eq_false_iff_not, mem_exemptSlots_iff, inRange_iff, Option.some.injEq]
    constructor
    · rintro ⟨rfl, j, hj, range, exempt⟩
      exact ⟨b, j, rfl, rfl, hj, range, exempt⟩
    · rintro ⟨_, j, rfl, rfl, hj, range, exempt⟩
      exact ⟨rfl, j, hj, range, exempt⟩

/-! ### The slots written (R124) -/

section
variable {s : State} {t : TableId}

theorem slotKey_emptySlots (is : List Nat) (u : TableId) (j : Nat) : (s.emptySlots t is).slotKey u j = s.slotKey u j := by
  have same := onlySlots_emptySlots s t is
  unfold State.OnlySlots at same
  rw [same]
  cases u <;> rfl

/-- The slots listed are EMPTY; the others are as they were. -/
theorem slot_emptySlots (k : Nat) :
    ∀ (is : List Nat) (s : State), (s.emptySlots t is).slot k = if ∃ j ∈ is, s.slotKey t j = k then .empty else s.slot k
  | [], s => by simp [State.emptySlots]
  | i :: is, s => by
    refine (slot_emptySlots k is (s.setEntry t i .empty)).trans ?_
    simp only [slotKey_setEntry, slot_setEntry, List.exists_mem_cons_iff]
    by_cases hi : s.slotKey t i = k <;> by_cases ht : ∃ j ∈ is, s.slotKey t j = k <;> simp [hi, ht]

theorem slot_emptySlots_outside {is : List Nat} {k : Nat} (hk : ∀ j ∈ is, k ≠ s.slotKey t j) :
    (s.emptySlots t is).slot k = s.slot k := by
  rw [slot_emptySlots, if_neg fun ⟨j, hj, e⟩ => hk j hj e.symm]

theorem entry_emptySlots_listed {is : List Nat} {j : Nat} (hj : j ∈ is) : (s.emptySlots t is).entry t j = .empty := by
  rw [State.entry, slotKey_emptySlots, slot_emptySlots, if_pos ⟨j, hj, rfl⟩]

/-- Two indices of one pair name two slots. -/
theorem slotKey_ne_of_pair {i j : Nat} (pair : j / 2 = i / 2) (hij : j ≠ i) : s.slotKey t j ≠ s.slotKey t i := by
  have bank : j / Config.bankSlots = i / Config.bankSlots := by
    show j / 128 = i / 128
    omega
  have place : j % Config.bankSlots ≠ i % Config.bankSlots := by
    show j % 128 ≠ i % 128
    omega
  unfold State.slotKey
  rw [bank]
  omega

theorem entry_setEntry_pair {i j : Nat} (pair : j / 2 = i / 2) (hij : j ≠ i) (x : Slot) :
    (s.setEntry t i x).entry t j = s.entry t j := by
  rw [State.entry, slotKey_setEntry, slot_setEntry, if_neg (slotKey_ne_of_pair pair hij).symm]
  rfl

end

section
variable {u : State} {i f : Nat} {act : Bool} {key : NarrowKey} {v : Verdict} {w : WideKey}

/-- A rule image as the rule it becomes. -/
def newRule (act : Bool) (key : NarrowKey) (v : Verdict) (f : Nat) : Rule :=
  { active := act, key := key, verdict := v, feed := f, hits := 0 }

theorem putImage_narrow :
    u.putImage .admission i (.narrow act key v f) =
      (u.emptySlots .admission (u.touched .admission i (.narrow act key v f))).setEntry .admission i
        (.narrow (newRule act key v f)) := rfl

theorem putImage_wide :
    u.putImage .admission i (.wide act key w v f) =
      ((u.emptySlots .admission (u.touched .admission i (.wide act key w v f))).setEntry .admission i
        (.wideHead (newRule act key v f))).setEntry .admission (i + 1) (.continuation w) := rfl

/-- The slots outside the touched ones are as they were. -/
theorem slot_putImage_admission {img : Image} (hf : img.fits .admission = true) {k : Nat}
    (hk : ∀ j ∈ u.touched .admission i img, k ≠ u.slotKey .admission j) : (u.putImage .admission i img).slot k = u.slot k := by
  have emptied := slot_emptySlots_outside hk
  have outside {c : Nat} (hc : c ∈ img.covers i) : k ≠ u.slotKey .admission c := hk c (List.mem_append_left _ hc)
  cases img with
  | empty => exact emptied
  | narrow act key v f =>
    rw [putImage_narrow, slot_setEntry, slotKey_emptySlots, if_neg (outside (List.mem_singleton.2 rfl)).symm, emptied]
  | wide act key w v f =>
    rw [putImage_wide, slot_setEntry, slotKey_setEntry, slotKey_emptySlots,
      if_neg (outside (mem_covers_iff.2 (.inr ⟨rfl, rfl⟩))).symm, slot_setEntry, slotKey_emptySlots,
      if_neg (outside (mem_covers_iff.2 (.inl rfl))).symm, emptied]
  | route => cases hf

/-- Under whole rules the touched slots of a narrow image stand in its pair. -/
theorem entry_putImage_narrow (hw : u.RulesWhole) (hi : i < u.tableSize .admission) {j : Nat}
    (hj : j ∈ u.touched .admission i (.narrow act key v f)) (hij : j ≠ i) :
    (u.putImage .admission i (.narrow act key v f)).entry .admission j = .empty := by
  have pair : j / 2 = i / 2 := by
    obtain ⟨c, rfl | ⟨wide, -⟩, held⟩ := mem_touched_iff.1 hj
    · exact held.elim (fun e => absurd e hij) (ruleSlots_pair hw hi)
    · cases wide
  rw [putImage_narrow, entry_setEntry_pair pair hij, entry_emptySlots_listed hj]

theorem entry_putImage_wide_head (even : i % 2 = 0) :
    (u.putImage .admission i (.wide act key w v f)).entry .admission i = .wideHead (newRule act key v f) := by
  rw [putImage_wide, entry_setEntry_pair (by omega) (by omega), entry_setEntry_self]

/-- Under whole rules a wide image touches no slot but its own two. -/
theorem touched_wide (hw : u.RulesWhole) (hp : u.Placed .admission i (.wide act key w v f)) {j : Nat}
    (hj : j ∈ u.touched .admission i (.wide act key w v f)) : j = i ∨ j = i + 1 := by
  have even : i % 2 = 0 := hp.2.2.resolve_left nofun
  obtain ⟨c, hc, hj⟩ := mem_touched_iff.1 hj
  have pair : j / 2 = c / 2 := hj.elim (fun e => e ▸ rfl) (ruleSlots_pair hw (covered_lt hp hc))
  rcases hc with rfl | ⟨-, rfl⟩ <;> omega

theorem duplicates_of_fits {img : Image} (hf : img.fits .admission = true) : u.duplicates img = false := by
  cases img with
  | route => cases hf
  | _ => rfl

end

/-! ### WRITE ENTRY to the admission table -/

section
variable {s : State} {h : Hdr} {i : Nat} {img : Image}

/-- Nothing ACTIVE stands in the way of image `img` over slots `js`. -/
def State.Free (s : State) (img : Image) (js : List Nat) : Prop :=
  img = .empty ∨ ∀ j ∈ js, s.activeAt .admission j = false

/-- A rule image that passes every check is written, and its reply counts the rules it removed. -/
theorem exec_writeEntry_rule (rd : s.Ready (.writeEntry h 1 i) h) (hm : s.staging.get h.link = img)
    (good : s.Placed .admission i img) (hl : s.locked .admission (s.touched .admission i img) = false)
    (free : s.Free img (s.touched .admission i img)) :
    exec (.writeEntry h 1 i) s =
      .next ((((s.handed h).putImage .admission i img).reply (askOf h (.writeEntry h 1 i) (.rule i)) .ok
        [wordNat i, wordNat img.kindNum,
          wordNat ((List.range (s.tableSize .admission)).filter fun hd =>
            decide (hd ∈ s.touched .admission i img) && s.ruleStands hd).length]).settle) := by
  have inactive : img = .empty ∨ (s.touched .admission i img).any (s.activeAt .admission) = false :=
    free.imp_right fun h => List.any_eq_false.2 fun j hj => by simp [h j hj]
  have own := own_writeEntry (s := s.handed h) (h := h) (n := 1) (a := askOf h (.writeEntry h 1 i) (.rule i)) (t := .admission) rfl hm
    good hl inactive (duplicates_of_fits good.2.1)
  refine exec_of_own rd (own.trans (congrArg (State.reply _ _ _) ?_))
  rw [← rulesIn_touched good]
  rfl

end

/-- Settles O33: which slots are touched and locked; the checks in their order; then the three images that can be written. -/
theorem rulesAreWritten : Obligations.RulesAreWritten := by
  refine ⟨fun s i j img => mem_touched_iff, fun s c => ⟨ruleSlots_single, fun hd r w => ruleSlots_wide⟩, fun s t js => locked_iff, ?_⟩
  intro h i s rd u a img refused slots good free removed written
  have placed (g : good) : s.Placed .admission i img := g
  have wrote (g : good) (hl : s.locked .admission slots = false) (hf : free) {n : Word} (hn : wordNat img.kindNum = n) :
      written (u.putImage .admission i img) n := by
    subst hn
    exact ⟨exec_writeEntry_rule rd rfl (placed g) hl hf, onlySlots_putImage .., fun k hk => slot_putImage_admission (u := u) g.2.1 hk⟩
  refine ⟨fun hi => ?badIndex, fun hi hf => ?wrongTable, fun hi hf hw odd => ?misaligned, fun g hl => ?locked, fun g hl hf => ?occupied,
    fun g hl hm => ?empty, fun act key v f g hl hf hm => ?narrow, fun act key w v f g hl hf hm => ?wide⟩
  case badIndex => exact exec_of_own rd (own_writeEntry_badIndex (s := u) (t := .admission) rfl hi)
  case wrongTable => exact exec_of_own rd (own_writeEntry_wrongTable (s := u) (t := .admission) rfl rfl hi hf)
  case misaligned => exact exec_of_own rd (own_writeEntry_misaligned (s := u) (t := .admission) rfl rfl hi hf hw odd)
  case locked => exact exec_of_own rd (own_writeEntry_locked (s := u) (t := .admission) rfl rfl (placed g) hl)
  case occupied =>
    obtain ⟨hx, active⟩ := not_or.1 hf
    have active : ∃ j ∈ slots, s.activeAt .admission j = true := by simpa using active
    exact exec_of_own rd (own_writeEntry_occupied (s := u) (t := .admission) rfl rfl (placed g) hl hx (List.any_eq_true.2 active))
  case empty =>
    refine ⟨u.putImage .admission i img, wrote g hl (.inl hm) (by rw [hm]; rfl), fun j hj => ?_⟩
    have emptied : u.putImage .admission i img = u.emptySlots .admission slots := by
      show u.putImage .admission i img = u.emptySlots .admission (u.touched .admission i img)
      rw [hm]; rfl
    rw [emptied, entry_emptySlots_listed hj]
  case narrow =>
    refine ⟨u.putImage .admission i img, wrote g hl hf (by rw [hm]; rfl), ?_, fun whole j hj hij => ?_⟩
    · rw [hm, putImage_narrow, entry_setEntry_self]; rfl
    · rw [hm]
      exact entry_putImage_narrow (u := u) whole g.1 (hm ▸ hj) hij
  case wide =>
    have placed' : u.Placed .admission i (.wide act key w v f) := hm ▸ placed g
    refine ⟨u.putImage .admission i img, wrote g hl hf (by rw [hm]; rfl), ?_, ?_, fun whole j hj hij hij' => ?_⟩
    · rw [hm]
      exact entry_putImage_wide_head (placed'.2.2.resolve_left nofun)
    · rw [hm, putImage_wide, entry_setEntry_self]
    · exact ((touched_wide (u := u) whole placed' (hm ▸ hj)).elim hij hij').elim

end Sys2Proof.Machine

/-! PROOFS. The table unit (file 07), three: READ ENTRY, ENABLE RULE and DISABLE RULE. -/

namespace Sys2Proof.Machine

/-! ### READ ENTRY (R126) -/

theorem staging_between (s : State) (t : TableId) : (s.between t).staging = s.staging :=
  congrArg Settings.staging (settings_between s t)

section
variable {s : State} {h : Hdr} {a : Ask} {n i : Nat}

theorem own_readEntry_badTable (h1 : n ≠ 1) (h2 : n ≠ 2) : s.own (.readEntry h n i) a = s.refuse a .badOperand [] := by
  show s.ownReadEntry a n i = _
  rw [State.ownReadEntry, table?_none h1 h2]

variable {t : TableId} (ht : table? n = some t)
include ht

theorem own_readEntry_badIndex (hi : (s.between t).tableSize t ≤ i) :
    s.own (.readEntry h n i) a = (s.between t).refuse a .badIndex [] := by
  show s.ownReadEntry a n i = _
  rw [State.ownReadEntry, ht]
  exact if_pos hi

theorem own_readEntry (hi : i < (s.between t).tableSize t) {img : Image} {ws : List Word} (him : (s.between t).imageAt t i = img)
    (hws : (s.between t).entryWords t i = ws) :
    s.own (.readEntry h n i) a = { s.between t with staging := s.staging.set a.link img }.reply a .ok ws := by
  subst him hws
  show s.ownReadEntry a n i = _
  rw [State.ownReadEntry, ht]
  refine (if_neg (Nat.not_le.2 hi)).trans ?_
  rw [State.stage, staging_between]

end

section
variable {s : State} {i : Nat}

theorem imageAt_route {r : Route} (hr : s.routeAt i = some r) :
    s.imageAt .route i = .route r.feed r.bus r.polarity r.target := by
  unfold State.imageAt
  dsimp only
  rw [hr]

theorem imageAt_noRoute (hr : s.routeAt i = none) : s.imageAt .route i = .empty := by
  unfold State.imageAt
  dsimp only
  rw [hr]

theorem imageAt_narrow {hd : Nat} {r : Rule} (hr : s.ruleAt i = some (hd, r, none)) :
    s.imageAt .admission i = .narrow r.active r.key r.verdict r.feed := by
  unfold State.imageAt
  dsimp only
  rw [hr]

theorem imageAt_wide {hd : Nat} {r : Rule} {w : WideKey} (hr : s.ruleAt i = some (hd, r, some w)) :
    s.imageAt .admission i = .wide r.active r.key w r.verdict r.feed := by
  unfold State.imageAt
  dsimp only
  rw [hr]

theorem imageAt_noRule (hr : s.ruleAt i = none) : s.imageAt .admission i = .empty := by
  unfold State.imageAt
  dsimp only
  rw [hr]

theorem entryWords_route {r : Route} (hr : s.routeAt i = some r) :
    s.entryWords .route i =
      [wordNat i, 3, wordNat (r.current / 65536), wordNat (r.current % 65536), wordNat r.target, wordNat r.remaining] ++
        wordsInt48 r.step := by
  unfold State.entryWords
  dsimp only
  rw [hr]
  rfl

theorem entryWords_noRoute (hr : s.routeAt i = none) : s.entryWords .route i = [wordNat i, 0] := by
  unfold State.entryWords
  dsimp only
  rw [hr]
  rfl

theorem entryWords_narrow {hd : Nat} {r : Rule} (hr : s.ruleAt i = some (hd, r, none)) :
    s.entryWords .admission i =
      [wordNat hd, 1, if r.active then 0 else 1] ++ narrowWords r.key ++ [wordNat r.verdict.num, wordNat r.feed, wordNat r.hits] := by
  unfold State.entryWords
  dsimp only
  rw [hr]
  rfl

theorem entryWords_wide {hd : Nat} {r : Rule} {w : WideKey} (hr : s.ruleAt i = some (hd, r, some w)) :
    s.entryWords .admission i =
      [wordNat hd, 2, if r.active then 0 else 1] ++ narrowWords r.key ++ wideWords w ++
        [wordNat r.verdict.num, wordNat r.feed, wordNat r.hits] := by
  unfold State.entryWords
  dsimp only
  rw [hr]
  rfl

theorem entryWords_noRule (hr : s.ruleAt i = none) : s.entryWords .admission i = [wordNat i, 0] := by
  unfold State.entryWords
  dsimp only
  rw [hr]
  rfl

end

/-! ### ENABLE RULE and DISABLE RULE (R127) -/

/-- The command that makes a rule ACTIVE or DISABLED. -/
theorem own_switchRule (s : State) (h : Hdr) (i : Nat) (act : Bool) (a : Ask) :
    s.own (if act then .enableRule h i else .disableRule h i) a = s.setRuleActive a i act := by
  cases act <;> rfl

theorem subjectOf_switchRule (h : Hdr) (i : Nat) (act : Bool) :
    subjectOf (if act then .enableRule h i else .disableRule h i) = .rule i := by
  cases act <;> rfl

section
variable {s : State} {a : Ask} {i : Nat} {act : Bool} (hi : i < s.tableSize .admission)
include hi

theorem setRuleActive_locked (hl : s.locked .admission (i :: s.ruleSlots i) = true) :
    s.setRuleActive a i act = s.refuse a .blockRange [] :=
  (if_neg (Nat.not_le.2 hi)).trans (if_pos hl)

variable (hl : s.locked .admission (i :: s.ruleSlots i) = false)
include hl

theorem setRuleActive_none (hr : s.ruleAt i = none) : s.setRuleActive a i act = s.refuse a .badIndex [] := by
  refine (if_neg (Nat.not_le.2 hi)).trans ((if_neg (by simp [hl])).trans ?_)
  rw [hr]

theorem setRuleActive_rule {hd : Nat} {r : Rule} {w : Option WideKey} (hr : s.ruleAt i = some (hd, r, w)) :
    s.setRuleActive a i act =
      (s.setEntry .admission hd ((s.entry .admission hd).withActive act)).reply a .ok
        [wordNat hd, wordActive r.active, wordActive act] := by
  refine (if_neg (Nat.not_le.2 hi)).trans ((if_neg (by simp [hl])).trans ?_)
  rw [hr]

end

/-- Settles O34: the refusals, then what stands at the entry read or switched. -/
theorem rulesAreReadAndSwitched : Obligations.RulesAreReadAndSwitched := by
  refine ⟨fun h t i s rd => ⟨fun h1 h2 => ?readBadTable, fun ht hi => ?readBadRule, fun ht hi => ?readBadRoute⟩,
    fun h i cmd s hc rd => ?switchRefused, fun h i s => ⟨fun rd hi => ⟨fun r hr => ?readRoute, fun hr => ?readNoRoute⟩,
      fun rd hi => ⟨fun r e => ?readNarrow, fun hd r w hc e ew => ?readWide, fun e => ?readEmpty⟩⟩,
    fun h i act s => ?switched⟩
  case readBadTable =>
    have subject : subjectOf (.readEntry h t i) = .device := entrySubject_unknown h1 h2 i
    refine exec_of_own rd ?_
    rw [subject]
    exact own_readEntry_badTable h1 h2
  case readBadRule => subst ht; exact exec_of_own rd (own_readEntry_badIndex (s := s.handed h) (t := .admission) rfl hi)
  case readBadRoute => subst ht; exact exec_of_own rd (own_readEntry_badIndex (s := s.handed h) (t := .route) rfl hi)
  case switchRefused =>
    rcases hc with rfl | rfl
    · exact ⟨fun hi => exec_of_own rd (if_pos hi), fun hi hl => exec_of_own rd (setRuleActive_locked (s := s.handed h) hi hl)⟩
    · exact ⟨fun hi => exec_of_own rd (if_pos hi), fun hi hl => exec_of_own rd (setRuleActive_locked (s := s.handed h) hi hl)⟩
  case readRoute =>
    exact exec_of_own rd (own_readEntry (s := s.handed h) (t := .route) rfl hi (imageAt_route hr) (entryWords_route hr))
  case readNoRoute =>
    exact exec_of_own rd (own_readEntry (s := s.handed h) (t := .route) rfl hi (imageAt_noRoute hr) (entryWords_noRoute hr))
  case readNarrow =>
    have hr := ruleAt_narrow (s := s.handed h) e
    exact exec_of_own rd (own_readEntry (s := s.handed h) (t := .admission) rfl hi (imageAt_narrow hr) (entryWords_narrow hr))
  case readWide =>
    have hr := ruleAt_wide (s := s.handed h) hc e ew
    exact exec_of_own rd (own_readEntry (s := s.handed h) (t := .admission) rfl hi (imageAt_wide hr) (entryWords_wide hr))
  case readEmpty =>
    have hr := ruleAt_empty (s := s.handed h) e
    exact exec_of_own rd (own_readEntry (s := s.handed h) (t := .admission) rfl hi (imageAt_noRule hr) (entryWords_noRule hr))
  case switched =>
    intro cmd u a rd hi hl
    have switch {t : State} (e : u.setRuleActive a i act = t) : exec cmd s = .next t.settle := by
      refine exec_of_own rd ?_
      rw [subjectOf_switchRule, own_switchRule]
      exact e
    refine ⟨fun r e => switch ?_, fun hd r w hc e ew => switch ?_, fun e => switch (setRuleActive_none hi hl (ruleAt_empty e))⟩
    · have e' : u.entry .admission i = .narrow r := e
      rw [setRuleActive_rule (s := u) hi hl (ruleAt_narrow e'), e']
      rfl
    · have e' : u.entry .admission hd = .wideHead r := e
      rw [setRuleActive_rule (s := u) hi hl (ruleAt_wide hc e' ew), e']
      rfl

end Sys2Proof.Machine

/-! PROOFS. The block operation (file 07), one: the commands that start, suspend, resume and abandon it. -/

namespace Sys2Proof.Machine

/-! ### Starting commands (R130 to R135) -/

theorem table?_num : ∀ t : TableId, table? (t.num + 1) = some t
  | .admission => rfl
  | .route => rfl

theorem scanMode?_none : ∀ {n : Nat}, n ≠ 1 → n ≠ 2 → scanMode? n = none
  | 0, _, _ => rfl
  | 1, h, _ => absurd rfl h
  | 2, _, h => absurd rfl h
  | _ + 3, _, _ => rfl

theorem scanMode?_known {n : Nat} (h : n = 1 ∨ n = 2) : ∃ m, scanMode? n = some m := by
  rcases h with rfl | rfl
  exacts [⟨.untilEqual, rfl⟩, ⟨.untilDifferent, rfl⟩]

theorem splits_iff {s : State} {t : TableId} {first count : Nat} :
    s.splits t first count = true ↔
      t = .admission ∧ ((∃ w, s.entry .admission first = .continuation w) ∨
        ∃ r, s.entry .admission (first + count - 1) = .wideHead r) := by
  cases t with
  | route => simp [State.splits]
  | admission =>
    unfold State.splits
    dsimp only
    rw [Bool.or_eq_true]
    refine Iff.trans (or_congr ?_ ?_) (and_iff_right rfl).symm
    · cases s.entry .admission first <;> simp
    · cases s.entry .admission (first + count - 1) <;> simp

/-- The selector names fields listed for the table, and STATE alone for the EMPTY image. -/
def selectorListed (t : TableId) (img : Image) (sel : Nat) : Prop :=
  1 ≤ sel ∧ sel < 2 ^ scanFields t ∧ (img = .empty → sel = 1)

theorem selectsWide_iff {sel : Nat} : selectsWide sel = true ↔ sel.testBit 5 = true ∨ sel.testBit 6 = true ∨ sel.testBit 7 = true := by
  rw [selectsWide, Bool.or_eq_true, Bool.or_eq_true, or_assoc]

theorem selectorListed_iff {t : TableId} {img : Image} {sel : Nat} :
    selectorListed t img sel ↔ 1 ≤ sel ∧ sel < (match t with | .admission => 1024 | .route => 32) ∧ (img = .empty → sel = 1) := by
  cases t <;> exact Iff.rfl

section
variable {s : State} {h : Hdr} {a : Ask} {n first dest count sel mode : Nat} {t : TableId}

theorem own_start_busy {i : Instr} (hb : s.block ≠ none)
    (hi : (∃ t x y n, i = .move h t x y n) ∨ (∃ t x n, i = .fill h t x n) ∨ (∃ t x n sel m, i = .scan h t x n sel m) ∨
      (∃ x n, i = .clearHits h x n)) : s.own i a = s.refuse a .busy [] := by
  have busy : s.block.isSome = true := Option.isSome_iff_ne_none.2 hb
  rcases hi with ⟨t, x, y, n, rfl⟩ | ⟨t, x, n, rfl⟩ | ⟨t, x, n, sel, m, rfl⟩ | ⟨x, n, rfl⟩ <;> exact if_pos busy

section
variable (hb : s.block = none)
include hb

/-! MOVE (R131) -/

theorem own_move_badOperand (bad : (n ≠ 1 ∧ n ≠ 2) ∨ count = 0) :
    s.own (.move h n first dest count) a = s.refuse a .badOperand [] := by
  refine (if_neg (by simp [hb])).trans ?_
  rcases bad with ⟨h1, h2⟩ | hc
  · rw [table?_none h1 h2]
  · cases table? n with
    | none => rfl
    | some t => exact if_pos hc

section
variable (ht : table? n = some t) (hc : 1 ≤ count)
include ht hc

theorem own_move_counted :
    s.own (.move h n first dest count) a =
      if s.tableSize t < first + count ∨ s.tableSize t < dest + count then s.refuse a .badIndex []
      else if dest = first then s.refuse a .badOperand []
      else if t = .admission ∧ (dest + first) % 2 = 1 then s.refuse a .badAlignment []
      else if s.splits t first count then s.refuse a .badAlignment []
      else
        s.startBlock a
          { a.block .move t first count with
            offset := (dest : Int) - first
            descending := decide (first < dest)
            next := if first < dest then first + count - 1 else first } := by
  refine (if_neg (by simp [hb])).trans ?_
  rw [ht]
  exact if_neg (by omega)

theorem own_move_beyond (beyond : ¬ (first + count ≤ s.tableSize t ∧ dest + count ≤ s.tableSize t)) :
    s.own (.move h n first dest count) a = s.refuse a .badIndex [] :=
  (own_move_counted hb ht hc).trans (if_pos (by omega))

variable (fits : first + count ≤ s.tableSize t ∧ dest + count ≤ s.tableSize t)
include fits

theorem own_move_nowhere (hd : dest = first) : s.own (.move h n first dest count) a = s.refuse a .badOperand [] :=
  (own_move_counted hb ht hc).trans ((if_neg (by omega)).trans (if_pos hd))

variable (hd : dest ≠ first)
include hd

theorem own_move_odd (hta : t = .admission) (odd : (dest + first) % 2 = 1) :
    s.own (.move h n first dest count) a = s.refuse a .badAlignment [] :=
  (own_move_counted hb ht hc).trans ((if_neg (by omega)).trans ((if_neg hd).trans (if_pos ⟨hta, odd⟩)))

theorem own_move_splits (hs : s.splits t first count = true) :
    s.own (.move h n first dest count) a = s.refuse a .badAlignment [] := by
  refine (own_move_counted hb ht hc).trans ((if_neg (by omega)).trans ((if_neg hd).trans ?_))
  by_cases odd : t = .admission ∧ (dest + first) % 2 = 1
  · exact if_pos odd
  · exact (if_neg odd).trans (if_pos hs)

theorem own_move (even : t = .admission → (dest + first) % 2 = 0) (hs : s.splits t first count = false) :
    s.own (.move h n first dest count) a =
      s.startBlock a
        { a.block .move t first count with
          offset := (dest : Int) - first
          descending := decide (first < dest)
          next := if first < dest then first + count - 1 else first } := by
  refine (own_move_counted hb ht hc).trans ((if_neg (by omega)).trans ((if_neg hd).trans ((if_neg ?_).trans (if_neg (by simp [hs])))))
  rintro ⟨hta, odd⟩
  have := even hta
  omega

end

/-! FILL (R133) -/

theorem own_fill_badOperand (bad : (n ≠ 1 ∧ n ≠ 2) ∨ count = 0) :
    s.own (.fill h n first count) a = s.refuse a .badOperand [] := by
  refine (if_neg (by simp [hb])).trans ?_
  rcases bad with ⟨h1, h2⟩ | hc
  · rw [table?_none h1 h2]
  · cases table? n with
    | none => rfl
    | some t => exact if_pos hc

section
variable {img : Image} (hm : s.staging.get a.link = img) (ht : table? n = some t) (hc : 1 ≤ count)
include hm ht hc

theorem own_fill_counted :
    s.own (.fill h n first count) a =
      if s.tableSize t < first + count then s.refuse a .badIndex []
      else if !img.fits t then s.refuse a .wrongTable []
      else if t = .route ∧ img ≠ .empty then s.refuse a .badOperand []
      else if img.isWide ∧ (first % 2 = 1 ∨ count % 2 = 1) then s.refuse a .badAlignment []
      else if s.splits t first count then s.refuse a .badAlignment []
      else s.startBlock a { a.block .fill t first count with image := img } := by
  subst hm
  refine (if_neg (by simp [hb])).trans ?_
  rw [ht]
  exact if_neg (by omega)

variable (fits : first + count ≤ s.tableSize t)
include fits

theorem own_fill_wrongTable (hf : img.fits t = false) : s.own (.fill h n first count) a = s.refuse a .wrongTable [] :=
  (own_fill_counted hb hm ht hc).trans ((if_neg (by omega)).trans (if_pos (by simp [hf])))

variable (hf : img.fits t = true)
include hf

theorem own_fill_route (hr : ¬ (t = .route → img = .empty)) : s.own (.fill h n first count) a = s.refuse a .badOperand [] :=
  (own_fill_counted hb hm ht hc).trans
    ((if_neg (by omega)).trans ((if_neg (by simp [hf])).trans (if_pos (Classical.not_imp.1 hr))))

variable (hr : t = .route → img = .empty)
include hr

theorem own_fill_suits :
    s.own (.fill h n first count) a =
      if img.isWide ∧ (first % 2 = 1 ∨ count % 2 = 1) then s.refuse a .badAlignment []
      else if s.splits t first count then s.refuse a .badAlignment []
      else s.startBlock a { a.block .fill t first count with image := img } :=
  (own_fill_counted hb hm ht hc).trans
    ((if_neg (by omega)).trans ((if_neg (by simp [hf])).trans (if_neg fun ⟨e, ne⟩ => ne (hr e))))

theorem own_fill_odd (hw : img.isWide = true) (odd : first % 2 = 1 ∨ count % 2 = 1) :
    s.own (.fill h n first count) a = s.refuse a .badAlignment [] :=
  (own_fill_suits hb hm ht hc fits hf hr).trans (if_pos ⟨hw, odd⟩)

theorem own_fill_splits (hs : s.splits t first count = true) :
    s.own (.fill h n first count) a = s.refuse a .badAlignment [] := by
  refine (own_fill_suits hb hm ht hc fits hf hr).trans ?_
  by_cases odd : img.isWide = true ∧ (first % 2 = 1 ∨ count % 2 = 1)
  · exact if_pos odd
  · exact (if_neg odd).trans (if_pos hs)

theorem own_fill (even : img.isWide = true → first % 2 = 0 ∧ count % 2 = 0) (hs : s.splits t first count = false) :
    s.own (.fill h n first count) a = s.startBlock a { a.block .fill t first count with image := img } := by
  refine (own_fill_suits hb hm ht hc fits hf hr).trans ((if_neg ?_).trans (if_neg (by simp [hs])))
  rintro ⟨hw, odd⟩
  obtain ⟨h1, h2⟩ := even hw
  omega

end

/-! SCAN (R134) -/

theorem own_scan_badOperand (bad : (n ≠ 1 ∧ n ≠ 2) ∨ (mode ≠ 1 ∧ mode ≠ 2) ∨ count = 0) :
    s.own (.scan h n first count sel mode) a = s.refuse a .badOperand [] := by
  refine (if_neg (by simp [hb])).trans ?_
  split
  case h_1 t m ht hm =>
    rcases bad with ⟨h1, h2⟩ | ⟨h1, h2⟩ | hc
    · rw [table?_none h1 h2] at ht; cases ht
    · rw [scanMode?_none h1 h2] at hm; cases hm
    · exact if_pos hc
  case h_2 => rfl

section
variable {img : Image} {m : ScanMode} (hm : s.staging.get a.link = img) (ht : table? n = some t) (hmode : scanMode? mode = some m)
  (hc : 1 ≤ count)
include hm ht hmode hc

theorem own_scan_counted :
    s.own (.scan h n first count sel mode) a =
      if s.tableSize t < first + count then s.refuse a .badIndex []
      else if badSelector t sel then s.refuse a .badOperand []
      else if img = .empty ∧ sel ≠ 1 then s.refuse a .badOperand []
      else if !img.fits t then s.refuse a .wrongTable []
      else if img.isNarrow ∧ selectsWide sel then s.refuse a .badOperand []
      else if s.splits t first count then s.refuse a .badAlignment []
      else s.startBlock a { a.block .scan t first count with image := img, selector := sel, mode := m } := by
  subst hm
  refine (if_neg (by simp [hb])).trans ?_
  rw [ht, hmode]
  exact if_neg (by omega)

variable (fits : first + count ≤ s.tableSize t)
include fits

theorem own_scan_unlisted (hl : ¬ selectorListed t img sel) :
    s.own (.scan h n first count sel mode) a = s.refuse a .badOperand [] := by
  refine (own_scan_counted hb hm ht hmode hc).trans ((if_neg (by omega)).trans ?_)
  by_cases bad : badSelector t sel = true
  · exact if_pos bad
  · refine (if_neg bad).trans (if_pos (Classical.not_imp.1 fun empty => hl ?_))
    rw [badSelector, decide_eq_true_iff] at bad
    exact ⟨by omega, by omega, empty⟩

variable (hl : selectorListed t img sel)
include hl

theorem own_scan_listed :
    s.own (.scan h n first count sel mode) a =
      if !img.fits t then s.refuse a .wrongTable []
      else if img.isNarrow ∧ selectsWide sel then s.refuse a .badOperand []
      else if s.splits t first count then s.refuse a .badAlignment []
      else s.startBlock a { a.block .scan t first count with image := img, selector := sel, mode := m } := by
  obtain ⟨low, high, empty⟩ := hl
  refine (own_scan_counted hb hm ht hmode hc).trans ((if_neg (by omega)).trans ((if_neg ?_).trans (if_neg ?_)))
  · rw [badSelector, decide_eq_true_iff]; omega
  · exact fun ⟨e, ne⟩ => ne (empty e)

theorem own_scan_wrongTable (hf : img.fits t = false) :
    s.own (.scan h n first count sel mode) a = s.refuse a .wrongTable [] :=
  (own_scan_listed hb hm ht hmode hc fits hl).trans (if_pos (by simp [hf]))

variable (hf : img.fits t = true)
include hf

theorem own_scan_wide (hw : img.isNarrow = true ∧ selectsWide sel = true) :
    s.own (.scan h n first count sel mode) a = s.refuse a .badOperand [] :=
  (own_scan_listed hb hm ht hmode hc fits hl).trans ((if_neg (by simp [hf])).trans (if_pos hw))

variable (hw : ¬ (img.isNarrow = true ∧ selectsWide sel = true))
include hw

theorem own_scan :
    s.own (.scan h n first count sel mode) a =
      if s.splits t first count then s.refuse a .badAlignment []
      else s.startBlock a { a.block .scan t first count with image := img, selector := sel, mode := m } :=
  (own_scan_listed hb hm ht hmode hc fits hl).trans ((if_neg (by simp [hf])).trans (if_neg hw))

end

/-! CLEAR HITS (R135) -/

theorem own_clearHits_none (hc : count = 0) : s.own (.clearHits h first count) a = s.refuse a .badOperand [] :=
  (if_neg (by simp [hb])).trans (if_pos hc)

theorem own_clearHits_beyond (hc : 1 ≤ count) (beyond : s.tableSize .admission < first + count) :
    s.own (.clearHits h first count) a = s.refuse a .badIndex [] :=
  (if_neg (by simp [hb])).trans ((if_neg (by omega)).trans (if_pos beyond))

theorem own_clearHits (hc : 1 ≤ count) (fits : first + count ≤ s.tableSize .admission) :
    s.own (.clearHits h first count) a =
      if s.splits .admission first count then s.refuse a .badAlignment []
      else s.startBlock a (a.block .clearHits .admission first count) :=
  (if_neg (by simp [hb])).trans ((if_neg (by omega)).trans (if_neg (by omega)))

end

end

/-- Settles O35: the refusals command by command, in their order; then the four contexts; then BUSY. -/
theorem blockOperationsStartOrAreBusy : Obligations.BlockOperationsStartOrAreBusy := by
  refine ⟨fun s t first count => splits_iff, fun i h s hb rd => ⟨?move, ?fill, ?scan, ?clearHits⟩, ?starts,
    fun h i s hb rd hi => ?busy⟩
  case move =>
    rintro n source dest count rfl
    refine ⟨fun bad => exec_of_own rd (own_move_badOperand (s := s.handed h) hb bad), fun t ht hc => ?_⟩
    have ht : table? n = some t := ht ▸ table?_num t
    exact ⟨fun beyond => exec_of_own rd (own_move_beyond (s := s.handed h) hb ht hc beyond),
      fun fits hd => exec_of_own rd (own_move_nowhere (s := s.handed h) hb ht hc fits hd),
      fun fits hd hta odd => exec_of_own rd (own_move_odd (s := s.handed h) hb ht hc fits hd hta odd),
      fun fits hd hs => exec_of_own rd (own_move_splits (s := s.handed h) hb ht hc fits hd hs)⟩
  case fill =>
    rintro n first count rfl
    refine ⟨fun bad => exec_of_own rd (own_fill_badOperand (s := s.handed h) hb bad), fun t ht hc => ?_⟩
    have ht : table? n = some t := ht ▸ table?_num t
    refine ⟨fun beyond => exec_of_own rd ((own_fill_counted (s := s.handed h) hb rfl ht hc).trans (if_pos (Nat.not_le.1 beyond))),
      fun fits hf => exec_of_own rd (own_fill_wrongTable (s := s.handed h) hb rfl ht hc fits hf),
      fun fits hf bad => exec_of_own rd (own_fill_route (s := s.handed h) hb rfl ht hc fits hf fun hr => bad ⟨hf, hr⟩),
      fun fits ⟨hf, hr⟩ hw odd => exec_of_own rd (own_fill_odd (s := s.handed h) hb rfl ht hc fits hf hr hw odd),
      fun fits ⟨hf, hr⟩ hs => exec_of_own rd (own_fill_splits (s := s.handed h) hb rfl ht hc fits hf hr hs)⟩
  case scan =>
    rintro n first count sel mode rfl
    refine ⟨fun bad => exec_of_own rd (own_scan_badOperand (s := s.handed h) hb bad), fun t ht hmode hc => ?_⟩
    have ht : table? n = some t := ht ▸ table?_num t
    obtain ⟨m, hmode⟩ := scanMode?_known hmode
    refine ⟨fun beyond =>
        exec_of_own rd ((own_scan_counted (s := s.handed h) hb rfl ht hmode hc).trans (if_pos (Nat.not_le.1 beyond))),
      fun fits hl => exec_of_own rd (own_scan_unlisted (s := s.handed h) hb rfl ht hmode hc fits (mt selectorListed_iff.1 hl)),
      fun fits hl hf => exec_of_own rd (own_scan_wrongTable (s := s.handed h) hb rfl ht hmode hc fits (selectorListed_iff.2 hl) hf),
      fun fits hl hf hw => exec_of_own rd (own_scan_wide (s := s.handed h) hb rfl ht hmode hc fits (selectorListed_iff.2 hl) hf ?_),
      fun fits hl hf hw hs => exec_of_own rd
        ((own_scan (s := s.handed h) (img := s.staging.get h.link) hb rfl ht hmode hc fits (selectorListed_iff.2 hl) hf ?_).trans (if_pos hs))⟩
    · rw [selectsWide_iff]; exact not_not.1 hw
    · rw [selectsWide_iff]; exact hw
  case clearHits =>
    rintro first count rfl
    exact ⟨fun hc => exec_of_own rd (own_clearHits_none (s := s.handed h) hb hc),
      fun hc beyond => exec_of_own rd (own_clearHits_beyond (s := s.handed h) hb hc beyond),
      fun hc fits hs => exec_of_own rd ((own_clearHits (s := s.handed h) hb hc fits).trans (if_pos hs))⟩
  case starts =>
    intro h t first count s n img starts hb hc fits hs
    have whole : ¬ s.splits t first count = true := by simp [hs]
    refine ⟨fun dest rd fits' hd even => ?_, fun rd hf hr even => ?_, fun sel mode m rd hm low high empty hf hw => ?_, fun hta rd => ?_⟩
    · exact exec_of_own rd (own_move (s := s.handed h) hb (table?_num t) hc ⟨fits, fits'⟩ hd even hs)
    · exact exec_of_own rd (own_fill (s := s.handed h) hb rfl (table?_num t) hc fits hf hr even hs)
    · refine exec_of_own rd ((own_scan (s := s.handed h) (img := img) hb rfl (table?_num t) hm hc fits ⟨low, high, empty⟩ hf ?_).trans
        (if_neg whole))
      rintro ⟨narrow, wide⟩
      simp [hw narrow] at wide
    · subst hta
      exact exec_of_own rd ((own_clearHits (s := s.handed h) hb hc fits).trans (if_neg whole))
  case busy =>
    have subject : subjectOf i = .block := by
      rcases hi with ⟨t, x, y, n, rfl⟩ | ⟨t, x, n, rfl⟩ | ⟨t, x, n, sel, m, rfl⟩ | ⟨x, n, rfl⟩ <;> rfl
    refine exec_of_own rd ?_
    rw [subject]
    exact own_start_busy (s := s.handed h) hb hi

/-! ### Control (R136, R137, R139) -/

section
variable {s : State} {h : Hdr} {a : Ask} {b : Block}

theorem withBlock_same (hb : s.block = some b) : { s with block := some b } = s := by rw [← hb]

theorem own_control_none {i : Instr} (hi : i = .suspendBlock h ∨ i = .resumeBlock h ∨ i = .abandonBlock h) (hb : s.block = none) :
    s.own i a = s.refuse a .noBlock [] := by
  rcases hi with rfl | rfl | rfl
  · show s.ownSuspendBlock a = _
    rw [State.ownSuspendBlock, hb]
  · show s.ownResumeBlock a = _
    rw [State.ownResumeBlock, hb]
  · show s.ownAbandonBlock a = _
    rw [State.ownAbandonBlock, hb]

section
variable (hb : s.block = some b)
include hb

theorem own_suspendBlock : s.own (.suspendBlock h) a = s.setPhase a b b.phase.suspend := by
  show s.ownSuspendBlock a = _
  rw [State.ownSuspendBlock, hb]

theorem own_suspendBlock_stopped {r : StopReason} {j : Nat} {js : List Nat} (hp : b.phase = .stopped r j js) :
    s.own (.suspendBlock h) a = s.reply a .ok [3, wordNat b.next, wordNat b.remaining] := by
  have same : { b with phase := b.phase.suspend } = b := by rw [hp, BlockPhase.suspend, ← hp]
  rw [own_suspendBlock hb, State.setPhase, same, withBlock_same hb, hp]
  rfl

theorem own_resumeBlock : s.own (.resumeBlock h) a = s.setPhase a b .running := by
  show s.ownResumeBlock a = _
  rw [State.ownResumeBlock, hb]

theorem own_abandonBlock :
    s.own (.abandonBlock h) a =
      (s.reply a .ok [wordNat b.next, wordNat b.remaining]).endBlock b .abandoned (some b.next) b.remaining := by
  show s.ownAbandonBlock a = _
  rw [State.ownAbandonBlock, hb]

end

end

/-- Settles O36: NO_BLOCK, the phases of R136's table, and the two forms of the end report. -/
theorem blockOperationsAreControlled : Obligations.BlockOperationsAreControlled := by
  intro h s u
  refine ⟨fun i hi hb rd => ?noBlock, fun b hb rd hp => ?suspend, fun b r j js hb rd hp => ?stopped,
    fun b hb rd => exec_of_own rd (own_resumeBlock (s := u) hb), fun b hb rd ha => ?abandonAcked, fun b hb rd ha => ?abandonPosted⟩
  case noBlock =>
    have subject : subjectOf i = .block := by rcases hi with rfl | rfl | rfl <;> rfl
    refine exec_of_own rd ?_
    rw [subject]
    exact own_control_none (s := u) hi hb
  case suspend =>
    refine exec_of_own rd ((own_suspendBlock (s := u) hb).trans ?_)
    rcases hp with hp | hp <;> rw [hp] <;> rfl
  case stopped => exact exec_of_own rd (own_suspendBlock_stopped (s := u) hb hp)
  case abandonAcked => exact exec_of_own rd ((own_abandonBlock (s := u) hb).trans (if_pos ha))
  case abandonPosted => exact exec_of_own rd ((own_abandonBlock (s := u) hb).trans (if_neg (by simp [ha])))

end Sys2Proof.Machine

/-! PROOFS. The block operation (file 07), two: its entry steps, and what SCAN compares. -/

namespace Sys2Proof.Machine

/-! ### Steps and ends (R136, R139) -/

/-- The end report of an operation, as an acknowledged start's reply or as an event. -/
def State.ended (v : State) (b : Block) (st : Status) (w n : Word) : State :=
  if b.acked then
    { v with block := none, heldPlace := false }.pushReport
      { earlierLost := false, kind := .reply, code := b.kind.code, tag := b.tag, status := st, subject := .block, time := 0,
        words := [wordNat b.kind.num, wordNat b.table.num, w, n] }
  else { v with block := none }.event .blockEnd b.tag st .block [wordNat b.kind.num, wordNat b.table.num, w, n]

/-- The operation after a step over `n` slots: at the end of its range it ends. -/
def State.goesOn (v : State) (b : Block) (n : Nat) : State :=
  if b.remaining ≤ n then v.ended b b.kind.finalStatus (BitVec.allOnes 32) 0
  else { v with
    block := some { b with next := if b.descending then b.next - n else b.next + n, remaining := b.remaining - n } }

section
variable {s : State} {b : Block}

theorem endBlock_eq (v : State) (st : Status) (next : Option Nat) (n : Nat) :
    v.endBlock b st next n = v.ended b st (wordOptNat next) (wordNat n) := rfl

theorem stepDone_eq (v : State) (n : Nat) : v.stepDone b n = v.goesOn b n :=
  if_congr (Nat.sub_eq_zero_iff_le (n := b.remaining)) rfl rfl

/-- On the route table a step falls between instants. -/
theorem between_table (s : State) (t : TableId) : (if t = .route then s.finishInstant else s) = s.between t := by
  cases t <;> rfl

/-- The step of a RUNNING operation of its own kind. -/
theorem blockStep_running (hb : s.block = some b) (hp : b.phase = .running) (f : State → Block → State) :
    s.blockStep b.kind f = f (s.between b.table) b := by
  rw [State.blockStep, hb]
  exact if_pos ⟨rfl, hp⟩

theorem exec_moveStep (hb : s.block = some b) (hk : b.kind = .move) (hp : b.phase = .running) {t : State}
    (e : (s.between b.table).moveStep b = t) : exec .moveStep s = .next t.settle := by
  rw [← e, ← blockStep_running hb hp State.moveStep, hk]; rfl

theorem exec_fillStep (hb : s.block = some b) (hk : b.kind = .fill) (hp : b.phase = .running) {t : State}
    (e : (s.between b.table).fillStep b = t) : exec .fillStep s = .next t.settle := by
  rw [← e, ← blockStep_running hb hp State.fillStep, hk]; rfl

theorem exec_scanStep (hb : s.block = some b) (hk : b.kind = .scan) (hp : b.phase = .running) {t : State}
    (e : (s.between b.table).scanStep b = t) : exec .scanStep s = .next t.settle := by
  rw [← e, ← blockStep_running hb hp State.scanStep, hk]; rfl

theorem exec_clearHitsStep (hb : s.block = some b) (hk : b.kind = .clearHits) (hp : b.phase = .running) {t : State}
    (e : (s.between b.table).clearHitsStep b = t) : exec .clearHitsStep s = .next t.settle := by
  rw [← e, ← blockStep_running hb hp State.clearHitsStep, hk]; rfl

end

/-! ### The slots of a step -/

section
variable {s : State} {q hd : Nat}

theorem ruleIndex_of_not_continuation (h : ∀ w, s.entry .admission q ≠ .continuation w) : s.ruleIndex q = q := by
  unfold State.ruleIndex
  split
  case h_1 w e => exact absurd e (h w)
  all_goals rfl

theorem ruleIndex_continuation {w : WideKey} (h : s.entry .admission q = .continuation w) : s.ruleIndex q = q - 1 := by
  rw [State.ruleIndex, h]

theorem routeAt_empty (h : s.entry .route q = .empty) : s.routeAt q = none := by rw [State.routeAt, h]

theorem stepSlots_empty {t : TableId} (h : s.entry t q = .empty) : s.stepSlots t q = [] := by
  cases t with
  | route =>
    rw [State.stepSlots, routeAt_empty h]
    rfl
  | admission =>
    rw [State.stepSlots, ruleAt_empty h]
    rfl

theorem stepSlots_route {r : Route} (h : s.entry .route q = .route r) : s.stepSlots .route q = [q] := by
  rw [State.stepSlots, routeAt_iff.2 h]
  rfl

/-- On the route table a step goes on by one slot. -/
theorem stepSlots_route_one : max 1 (s.stepSlots .route q).length = 1 := by
  unfold State.stepSlots
  dsimp only
  split <;> rfl

theorem stepSlots_narrow {r : Rule} (h : s.entry .admission q = .narrow r) : s.stepSlots .admission q = [q] := by
  rw [State.stepSlots, ruleAt_narrow h, ruleSlots_single (.inr ⟨r, h⟩)]
  rfl

theorem stepSlots_wide {r : Rule} {w : WideKey} (hq : q = hd ∨ q = hd + 1) (h : s.entry .admission hd = .wideHead r)
    (hw : s.entry .admission (hd + 1) = .continuation w) : s.stepSlots .admission q = [hd, hd + 1] := by
  rw [State.stepSlots, ruleAt_wide hq h hw, ruleSlots_wide hq h hw]
  rfl

end

/-! ### MOVE (R132) -/

theorem ended_move {b : Block} (hk : b.kind = .move) (v : State) (st : Status) (w n : Word) :
    v.ended b st w n =
      if b.acked then
        { v with block := none, heldPlace := false }.pushReport
          { earlierLost := false, kind := .reply, code := 0x48, tag := b.tag, status := st, subject := .block, time := 0,
            words := [0, wordNat b.table.num, w, n] }
      else { v with block := none }.event .blockEnd b.tag st .block [0, wordNat b.table.num, w, n] := by
  rw [State.ended, hk]
  rfl

section
variable {u : State} {b : Block}

theorem moveStep_empty (h : u.entry b.table b.next = .empty) : u.moveStep b = u.goesOn b 1 := by
  unfold State.moveStep
  dsimp only
  rw [stepSlots_empty h, if_pos rfl, stepDone_eq]

section
variable {src : List Nat} (hs : u.stepSlots b.table b.next = src) (hne : src ≠ [])
include hs hne

theorem moveStep_carries (free : ∀ j ∈ src, u.entry b.table (shifted b.offset j) = .empty) :
    u.moveStep b = (u.carry b.table b.offset src).goesOn b src.length := by
  have filled : ((src.map (shifted b.offset)).filter fun j => u.entry b.table j ≠ .empty) = [] := by
    simpa using free
  unfold State.moveStep
  dsimp only
  rw [hs, if_neg hne, if_pos filled, stepDone_eq]

theorem moveStep_stops {js : List Nat}
    (filled : ((src.map (shifted b.offset)).filter fun j => u.entry b.table j ≠ .empty) = js) (hj : js ≠ []) :
    u.moveStep b = u.stopBlock b .destOccupied js := by
  unfold State.moveStep
  dsimp only
  rw [hs, if_neg hne, filled, if_neg hj]

end

/-- What an operation that stops becomes, and the event of it. -/
def State.stopped (u : State) (b : Block) (r : StopReason) (i : Nat) (js : List Nat) : State :=
  { u with block := some { b with phase := .stopped r i js } }.event .blockStopped b.tag r.status .block
    [wordNat b.kind.num, wordNat r.num, wordNat i, wordNat b.next, wordNat b.remaining]

theorem stopBlock_eq {r : StopReason} {j i : Nat} {js : List Nat} (ha : b.table = .admission → u.ruleIndex j = i)
    (hr : b.table = .route → j = i) : u.stopBlock b r (j :: js) = u.stopped b r i (j :: js) := by
  have index : (match b.table with | .admission => u.ruleIndex j | .route => j) = i := by
    cases ht : b.table with
    | admission => exact ha ht
    | route => exact hr ht
  exact congrArg (u.stopped b r · (j :: js)) index

/-- One slot is carried. -/
theorem moveStep_one {x : Slot} (hx : u.entry b.table b.next = x) (hs : u.stepSlots b.table b.next = [b.next])
    (free : u.entry b.table (shifted b.offset b.next) = .empty) :
    u.moveStep b =
      ((u.setEntry b.table (shifted b.offset b.next) x).setEntry b.table b.next .empty).goesOn b 1 := by
  subst hx
  exact moveStep_carries hs nofun fun j hj => by rw [List.mem_singleton.1 hj]; exact free

/-- The slot that one slot would be carried to is filled. -/
theorem moveStep_one_stops {i : Nat} (hs : u.stepSlots b.table b.next = [b.next])
    (filled : u.entry b.table (shifted b.offset b.next) ≠ .empty)
    (ha : b.table = .admission → u.ruleIndex (shifted b.offset b.next) = i) (hr : b.table = .route → shifted b.offset b.next = i) :
    u.moveStep b = u.stopped b .destOccupied i [shifted b.offset b.next] := by
  rw [moveStep_stops hs nofun (js := [shifted b.offset b.next]) (by simp [filled]) nofun, stopBlock_eq ha hr]

section
variable {hd : Nat} {r : Rule} {w : WideKey} (ht : b.table = .admission) (hn : b.next = hd ∨ b.next = hd + 1)
  (e : u.entry .admission hd = .wideHead r) (ew : u.entry .admission (hd + 1) = .continuation w)
include ht hn e ew

theorem moveStep_wide (free : u.entry .admission (shifted b.offset hd) = .empty)
    (free' : u.entry .admission (shifted b.offset (hd + 1)) = .empty) :
    u.moveStep b =
      ((((u.setEntry .admission (shifted b.offset hd) (.wideHead r)).setEntry .admission hd .empty).setEntry .admission
        (shifted b.offset (hd + 1)) (.continuation w)).setEntry .admission (hd + 1) .empty).goesOn b 2 := by
  have hs : u.stepSlots b.table b.next = [hd, hd + 1] := by rw [ht]; exact stepSlots_wide hn e ew
  rw [moveStep_carries hs nofun (by rw [ht]; simp [free, free']), ht, ← e, ← ew]
  rfl

/-- A destination slot of a wide rule is filled: the operation stops at the lowest such slot. -/
theorem moveStep_wide_stops {j : Nat} {js : List Nat}
    (filled : (([hd, hd + 1].map (shifted b.offset)).filter fun j => u.entry .admission j ≠ .empty) = j :: js)
    (hj : ∀ w, u.entry .admission j ≠ .continuation w) : u.moveStep b = u.stopped b .destOccupied j (j :: js) := by
  have hs : u.stepSlots b.table b.next = [hd, hd + 1] := by rw [ht]; exact stepSlots_wide hn e ew
  rw [moveStep_stops hs nofun (js := j :: js) (by rw [ht]; exact filled) nofun]
  exact stopBlock_eq (fun _ => ruleIndex_of_not_continuation hj) fun c => nomatch ht.symm.trans c

end

end

/-- Settles O37: the slots of the step by what stands at its index, and what stands at their destinations. -/
theorem moveStepsCarryEntries : Obligations.MoveStepsCarryEntries := by
  intro b s hb hk hp u d report goes stops
  have hu : u = s.between b.table := between_table s b.table
  have went (v : State) (n : Nat) : v.goesOn b n = goes v n := by
    have final : b.kind.finalStatus = .done := by rw [hk]; rfl
    rw [State.goesOn, ended_move hk, final]
  have stop (j : Nat) (js : List Nat) : u.stopped b .destOccupied j js = stops j js := by
    have kind : wordNat b.kind.num = 0 := by rw [hk]; rfl
    rw [State.stopped, kind]
    rfl
  have step {t : State} (e : u.moveStep b = t) : exec .moveStep s = .next t.settle := exec_moveStep hb hk hp (hu ▸ e)
  refine ⟨fun h => step ((moveStep_empty h).trans (went ..)), fun x hx h => ?one, fun hd r w ht hn e ew => ?wide⟩
  case one =>
    have single : u.stepSlots b.table b.next = [b.next] := by
      rcases hx with ⟨r, rfl, ht⟩ | ⟨r, rfl, ht⟩ <;> rw [ht] at h ⊢
      · exact stepSlots_route h
      · exact stepSlots_narrow h
    refine ⟨fun free => step ((moveStep_one h single free).trans (went ..)), fun filled nc => step ?_, fun w ht ew => step ?_⟩
    · refine (moveStep_one_stops single filled (fun ht => ruleIndex_of_not_continuation fun w => ?_) fun _ => rfl).trans (stop ..)
      rw [← ht]; exact nc w
    · refine (moveStep_one_stops single ?_ (fun _ => ruleIndex_continuation ew) fun hr => ?_).trans (stop ..)
      · rw [ht]; exact fun c => nomatch ew.symm.trans c
      · rw [ht] at hr; cases hr
  case wide =>
    refine ⟨fun free free' => step ((moveStep_wide ht hn e ew free free').trans (went ..)), fun q hq free => step ?_,
      fun q free hq => step ?_, fun q hq rule filled => step ?_⟩
    · refine (moveStep_wide_stops ht hn e ew (j := d hd) (js := []) ?_ ?_).trans (stop ..)
      · simp [show u.entry .admission (shifted b.offset hd) = _ from hq, show u.entry .admission (shifted b.offset (hd + 1)) = _ from free]
        rfl
      · exact fun w c => nomatch hq.symm.trans c
    · refine (moveStep_wide_stops ht hn e ew (j := d (hd + 1)) (js := []) ?_ ?_).trans (stop ..)
      · simp [show u.entry .admission (shifted b.offset hd) = _ from free, show u.entry .admission (shifted b.offset (hd + 1)) = _ from hq]
        rfl
      · exact fun w c => nomatch hq.symm.trans c
    · have head : ∀ x, q = x → x ≠ .empty ∧ ∀ w, x ≠ .continuation w := by
        rintro x rfl
        rcases rule with ⟨n, rfl⟩ | ⟨n, rfl⟩ <;> exact ⟨nofun, nofun⟩
      obtain ⟨he, hc⟩ := head q rfl
      refine (moveStep_wide_stops ht hn e ew (j := d hd) (js := [d (hd + 1)]) ?_ (hq ▸ hc)).trans (stop ..)
      have he' : u.entry .admission (shifted b.offset hd) ≠ .empty := hq ▸ he
      have filled' : u.entry .admission (shifted b.offset (hd + 1)) ≠ .empty := filled
      simp [he', filled']
      exact ⟨rfl, rfl⟩

/-! ### FILL, SCAN and CLEAR HITS (R133 to R135) -/

section
variable {u : State} {b : Block}

theorem fillStep_goes (h : b.image = .empty ∨ ∀ j ∈ b.image.covers b.next, u.activeAt b.table j = false) :
    u.fillStep b = (u.putImage b.table b.next b.image).goesOn b (b.image.covers b.next).length := by
  have none : (if b.image = .empty then [] else (b.image.covers b.next).filter (u.activeAt b.table)) = [] := by
    split
    · rfl
    · rw [List.filter_eq_nil_iff]
      exact fun j hj => by simp [h.resolve_left ‹_› j hj]
  unfold State.fillStep
  dsimp only
  rw [none, if_pos rfl, stepDone_eq]

theorem fillStep_stops {j : Nat} {js : List Nat} (hi : b.image ≠ .empty) (ht : b.table = .admission)
    (hf : (b.image.covers b.next).filter (u.activeAt .admission) = j :: js) :
    u.fillStep b = u.stopped b .occupied (u.ruleIndex j) (j :: js) := by
  unfold State.fillStep
  dsimp only
  rw [if_neg hi, ht, hf, if_neg (by nofun), stopBlock_eq (fun _ => rfl) fun c => by rw [ht] at c; cases c]

theorem scanStep_found (h : b.scanMatches (u.imageAt b.table b.next) = true) :
    u.scanStep b = u.ended b .found (wordNat b.next) (wordNat b.remaining) := if_pos h

theorem scanStep_goes (h : b.scanMatches (u.imageAt b.table b.next) = false) {n : Nat}
    (hn : max 1 (u.stepSlots b.table b.next).length = n) : u.scanStep b = u.goesOn b n := by
  subst hn
  exact (if_neg (by simp [h])).trans (stepDone_eq ..)

theorem clearHitsStep_eq {x : Slot} (hx : u.entry .admission b.next = x) {n : Nat}
    (hn : max 1 (u.stepSlots .admission b.next).length = n) :
    u.clearHitsStep b = (u.setEntry .admission b.next (x.withHits 0)).goesOn b n := by
  subst hx hn
  exact stepDone_eq ..

end

/-- A record that a store does not list is not in its list. -/
theorem cellDrop_unlisted {α : Type} {d : α} {i : Nat} :
    ∀ {m : List (Nat × α)}, (∀ p ∈ m, p.2 ≠ d) → cellGet d m i = d → cellDrop m i = m
  | [], _, _ => rfl
  | (k, v) :: m, hm, h => by
    have hk : k ≠ i := by
      rintro rfl
      exact hm (k, v) List.mem_cons_self (by simpa [cellGet] using h)
    rw [cellGet, if_neg hk] at h
    have tail := cellDrop_unlisted (fun p hp => hm p (List.mem_cons_of_mem _ hp)) h
    rw [cellDrop] at tail ⊢
    rw [List.filter_cons_of_pos (by simpa using hk), tail]

/-- In canonical stores an EMPTY slot made EMPTY changes nothing. -/
theorem setEntry_empty_same {s : State} (hs : Cells.wf Slot.empty s.slots) {t : TableId} {i : Nat} (h : s.entry t i = .empty) :
    s.setEntry t i .empty = s := by
  have same : cellSet .empty s.slots (s.slotKey t i) .empty = s.slots :=
    (if_pos rfl).trans (cellDrop_unlisted hs.2 h)
  rw [State.setEntry, State.setSlot, same]

/-! ### What SCAN compares (R134) -/

section
variable {b : Block} {t : TableId} {e i : Image} {sel : Nat}

theorem mem_selectedFields {j : Nat} : j ∈ selectedFields t sel ↔ j < scanFields t ∧ sel.testBit j = true := by
  rw [selectedFields, List.mem_filter, List.mem_range]

/-- Every selected field is equal in both images. -/
def Block.agrees (b : Block) (e : Image) : Prop :=
  ∀ j ∈ selectedFields b.table b.selector, fieldEqual b.table j e b.image = true

theorem scanMatches_equal (hm : b.mode = .untilEqual) : b.scanMatches e = true ↔ b.agrees e := by
  rw [Block.scanMatches, hm]
  exact List.all_eq_true

theorem scanMatches_different (hm : b.mode = .untilDifferent) : b.scanMatches e = true ↔ ¬ b.agrees e := by
  rw [Block.scanMatches, hm]
  refine List.any_eq_true.trans ?_
  simp [Block.agrees]

/-- The comparison in both modes, by what agreement says. -/
theorem scanMatches_iff {equal : Prop} (h : b.agrees e ↔ equal) :
    (b.mode = .untilEqual → (b.scanMatches e = true ↔ equal)) ∧ (b.mode = .untilDifferent → (b.scanMatches e = true ↔ ¬ equal)) :=
  ⟨fun hm => (scanMatches_equal hm).trans h, fun hm => (scanMatches_different hm).trans (not_congr h)⟩

/-- The ten fields of an admission entry. -/
theorem agrees_admission_iff (ht : b.table = .admission) :
    b.agrees e ↔
      (b.selector.testBit 0 = true → fieldEqual .admission 0 e b.image = true) ∧
      (b.selector.testBit 1 = true → fieldEqual .admission 1 e b.image = true) ∧
      (b.selector.testBit 2 = true → fieldEqual .admission 2 e b.image = true) ∧
      (b.selector.testBit 3 = true → fieldEqual .admission 3 e b.image = true) ∧
      (b.selector.testBit 4 = true → fieldEqual .admission 4 e b.image = true) ∧
      (b.selector.testBit 5 = true → fieldEqual .admission 5 e b.image = true) ∧
      (b.selector.testBit 6 = true → fieldEqual .admission 6 e b.image = true) ∧
      (b.selector.testBit 7 = true → fieldEqual .admission 7 e b.image = true) ∧
      (b.selector.testBit 8 = true → fieldEqual .admission 8 e b.image = true) ∧
      (b.selector.testBit 9 = true → fieldEqual .admission 9 e b.image = true) := by
  unfold Block.agrees
  rw [ht]
  simp only [mem_selectedFields, and_imp]
  show (∀ j, j < 10 → _) ↔ _
  simp only [Nat.forall_lt_succ_right, Nat.not_lt_zero, false_implies, implies_true, true_and, and_assoc]

/-- The five fields of a route. -/
theorem agrees_route_iff (ht : b.table = .route) :
    b.agrees e ↔
      (b.selector.testBit 0 = true → fieldEqual .route 0 e b.image = true) ∧
      (b.selector.testBit 1 = true → fieldEqual .route 1 e b.image = true) ∧
      (b.selector.testBit 2 = true → fieldEqual .route 2 e b.image = true) ∧
      (b.selector.testBit 3 = true → fieldEqual .route 3 e b.image = true) ∧
      (b.selector.testBit 4 = true → fieldEqual .route 4 e b.image = true) := by
  unfold Block.agrees
  rw [ht]
  simp only [mem_selectedFields, and_imp]
  show (∀ j, j < 5 → _) ↔ _
  simp only [Nat.forall_lt_succ_right, Nat.not_lt_zero, false_implies, implies_true, true_and, and_assoc]

theorem stateNum_ne_zero (h : i ≠ .empty) : i.stateNum ≠ 0 := by
  cases i with
  | empty => exact absurd rfl h
  | narrow act | wide act => cases act <;> nofun
  | route => nofun

theorem kindNum_ne_zero (h : i ≠ .empty) : i.kindNum ≠ 0 := by
  cases i with
  | empty => exact absurd rfl h
  | _ => nofun

/-- An EMPTY slot differs from a rule or route image in every field. -/
theorem fieldEqual_empty (h : i ≠ .empty) (j : Nat) : fieldEqual t j .empty i = false := by
  unfold fieldEqual
  split
  case h_1 => exact decide_eq_false fun e => stateNum_ne_zero h e.symm
  case h_2 => exact decide_eq_false fun e => kindNum_ne_zero h e.symm
  all_goals rfl

/-- A selector that names a listed field selects it. -/
theorem selectedFields_nonempty (low : 1 ≤ sel) (high : sel < 2 ^ scanFields t) : ∃ j, j ∈ selectedFields t sel := by
  obtain ⟨j, hj⟩ := Nat.exists_testBit_of_ne_zero (Nat.ne_of_gt low)
  exact ⟨j, mem_selectedFields.2 ⟨(Nat.pow_lt_pow_iff_right (by decide)).1 ((Nat.ge_two_pow_of_testBit hj).trans_lt high), hj⟩⟩

theorem agrees_empty_iff (hi : b.image ≠ .empty) (high : b.selector < 2 ^ scanFields b.table) (low : 1 ≤ b.selector) :
    b.agrees .empty ↔ False := by
  refine iff_false_intro fun agrees => ?_
  obtain ⟨j, hj⟩ := selectedFields_nonempty low high
  exact Bool.false_ne_true ((fieldEqual_empty hi j).symm.trans (agrees j hj))

theorem selectedFields_state : ∀ t : TableId, selectedFields t 1 = [0]
  | .admission => by decide
  | .route => by decide

/-- With STATE alone selected, images agree that have the same state. -/
theorem agrees_state_iff (hs : b.selector = 1) : b.agrees e ↔ e.stateNum = b.image.stateNum := by
  unfold Block.agrees
  rw [hs, selectedFields_state, List.forall_mem_singleton, fieldEqual]
  exact decide_eq_true_iff

end

/-- The fields of two rules that both kinds of rule hold: STATE, the three of the narrow key, VERDICT and FEED. -/
def ruleFieldsAgree (sel : Nat) (a a' : Bool) (k k' : NarrowKey) (v v' : Verdict) (f f' : Nat) : Prop :=
  (sel.testBit 0 = true → a' = a) ∧ (sel.testBit 2 = true → k'.linkV = k.linkV ∧ k'.linkC = k.linkC) ∧
    (sel.testBit 3 = true → k'.streamV = k.streamV ∧ k'.streamC = k.streamC) ∧
    (sel.testBit 4 = true → k'.classV = k.classV ∧ k'.classC = k.classC) ∧ (sel.testBit 8 = true → v' = v) ∧
    (sel.testBit 9 = true → f' = f)

section
variable {b : Block} {a a' : Bool} {k k' : NarrowKey} {w w' : WideKey} {v v' : Verdict} {f f' : Nat}

theorem state_iff : ((if a' = true then 1 else 2) = (if a = true then 1 else 2)) ↔ a' = a := by cases a <;> cases a' <;> decide

/-! The four pairs of a rule's image and an entry's: the fields that only one of the two holds never agree. -/

theorem agrees_narrow_narrow (ht : b.table = .admission) (hi : b.image = .narrow a k v f)
    (hn : ¬ (b.selector.testBit 5 = true ∨ b.selector.testBit 6 = true ∨ b.selector.testBit 7 = true)) :
    b.agrees (.narrow a' k' v' f') ↔ ruleFieldsAgree b.selector a a' k k' v v' f f' := by
  rw [agrees_admission_iff ht, hi, ruleFieldsAgree]
  simp only [not_or, Bool.not_eq_true] at hn
  obtain ⟨h5, h6, h7⟩ := hn
  simp [fieldEqual, sameField, Image.stateNum, Image.kindNum, Image.key?, Image.verdict?, Image.feed?, h5, h6, h7, state_iff]

theorem agrees_wide_narrow (ht : b.table = .admission) (hi : b.image = .narrow a k v f)
    (hn : ¬ (b.selector.testBit 5 = true ∨ b.selector.testBit 6 = true ∨ b.selector.testBit 7 = true)) :
    b.agrees (.wide a' k' w' v' f') ↔ ¬ b.selector.testBit 1 = true ∧ ruleFieldsAgree b.selector a a' k k' v v' f f' := by
  rw [agrees_admission_iff ht, hi, ruleFieldsAgree]
  simp only [not_or, Bool.not_eq_true] at hn
  obtain ⟨h5, h6, h7⟩ := hn
  simp [fieldEqual, sameField, Image.stateNum, Image.kindNum, Image.key?, Image.verdict?, Image.feed?, h5, h6, h7, state_iff]
  tauto

theorem agrees_wide_wide (ht : b.table = .admission) (hi : b.image = .wide a k w v f) :
    b.agrees (.wide a' k' w' v' f') ↔
      ruleFieldsAgree b.selector a a' k k' v v' f f' ∧
        (b.selector.testBit 5 = true → w'.programV = w.programV ∧ w'.programC = w.programC) ∧
        (b.selector.testBit 6 = true → w'.languageV = w.languageV ∧ w'.languageC = w.languageC) ∧
        (b.selector.testBit 7 = true → w'.rateV = w.rateV ∧ w'.rateC = w.rateC) := by
  rw [agrees_admission_iff ht, hi, ruleFieldsAgree]
  simp [fieldEqual, sameField, Image.stateNum, Image.kindNum, Image.key?, Image.wide?, Image.verdict?, Image.feed?, state_iff]
  tauto

theorem agrees_narrow_wide (ht : b.table = .admission) (hi : b.image = .wide a k w v f) :
    b.agrees (.narrow a' k' v' f') ↔
      ¬ (b.selector.testBit 1 = true ∨ b.selector.testBit 5 = true ∨ b.selector.testBit 6 = true ∨ b.selector.testBit 7 = true) ∧
        ruleFieldsAgree b.selector a a' k k' v v' f f' := by
  rw [agrees_admission_iff ht, hi, ruleFieldsAgree]
  simp [fieldEqual, sameField, Image.stateNum, Image.kindNum, Image.key?, Image.wide?, Image.verdict?, Image.feed?, state_iff]
  tauto

theorem agrees_route_route {u u' g g' : Nat} {p p' : Polarity} (ht : b.table = .route) (hi : b.image = .route f u p g) :
    b.agrees (.route f' u' p' g') ↔
      (b.selector.testBit 1 = true → f' = f) ∧ (b.selector.testBit 2 = true → u' = u) ∧
        (b.selector.testBit 3 = true → p' = p) ∧ (b.selector.testBit 4 = true → g' = g) := by
  rw [agrees_route_iff ht, hi]
  simp [fieldEqual, sameField, Image.stateNum, Image.feed?, Image.route?]

end

/-- Settles O38: the three kinds of step by what they meet, the images of entries, and the comparison field by field. -/
theorem stepsFillScanAndClearEntries : Obligations.StepsFillScanAndClearEntries := by
  refine ⟨?steps, fun s i => ⟨fun t h => ?emptyImage, fun r h => imageAt_route (routeAt_iff.2 h), fun r h => imageAt_narrow (ruleAt_narrow h),
    fun r w h hw => imageAt_wide (ruleAt_wide (.inl rfl) h hw)⟩, ?compares⟩
  case steps =>
    intro b s hb hp hwf u report goes slots wide
    have hu : u = s.between b.table := between_table s b.table
    have went {st : Status} (hs : b.kind.finalStatus = st) (v : State) (n : Nat) : v.goesOn b n = goes st v n := by
      subst hs; rfl
    have atAdmission (ht : b.table = .admission) : u = s := by rw [hu, ht]; rfl
    refine ⟨fun hk h => exec_fillStep hb hk hp (hu ▸ (fillStep_goes h).trans (went (by rw [hk]; rfl) ..)),
      fun j js hk hi ht hf => exec_fillStep hb hk hp (hu ▸ (fillStep_stops hi ht hf).trans ?_),
      fun hk h => exec_scanStep hb hk hp (hu ▸ scanStep_found h),
      fun hk h ht hw => exec_scanStep hb hk hp (hu ▸ (scanStep_goes h ?_).trans (went (by rw [hk]; rfl) ..)),
      fun hk h hone => exec_scanStep hb hk hp (hu ▸ (scanStep_goes h ?_).trans (went (by rw [hk]; rfl) ..)),
      fun r hk ht e => exec_clearHitsStep hb hk hp (hu ▸ (clearHitsStep_eq e ?_).trans (went (by rw [hk]; rfl) ..)),
      fun r w hk ht e ew => exec_clearHitsStep hb hk hp (hu ▸ (clearHitsStep_eq e ?_).trans (went (by rw [hk]; rfl) ..)),
      fun hk ht e => exec_clearHitsStep hb hk hp (hu ▸ ?_)⟩
    · have kind : wordNat b.kind.num = 1 := by rw [hk]; rfl
      rw [State.stopped, kind]; rfl
    · obtain ⟨r, w, e, ew⟩ := hw
      rw [ht, stepSlots_wide (.inl rfl) e ew]; rfl
    · cases ht : b.table with
      | route => exact stepSlots_route_one
      | admission =>
        rcases hone with hr | e | ⟨r, e⟩
        · rw [ht] at hr; cases hr
        · rw [stepSlots_empty e]; rfl
        · rw [stepSlots_narrow e]; rfl
    · rw [stepSlots_narrow e]; rfl
    · rw [stepSlots_wide (.inl rfl) e ew]; rfl
    · rw [clearHitsStep_eq e (n := 1) (by rw [stepSlots_empty e]; rfl)]
      refine Eq.trans ?_ (went (by rw [hk]; rfl) ..)
      exact congrArg (State.goesOn · b 1) (setEntry_empty_same (by rw [atAdmission ht]; exact hwf) e)
  case emptyImage =>
    cases t with
    | route => exact imageAt_noRoute (routeAt_empty h)
    | admission => exact imageAt_noRule (ruleAt_empty h)
  case compares =>
    intro b selects compares rules
    refine ⟨fun a k v f ht high hi hn => ⟨fun a' k' v' f' => scanMatches_iff (agrees_narrow_narrow ht hi hn),
        fun a' k' w' v' f' => scanMatches_iff (agrees_wide_narrow ht hi hn),
        fun low => scanMatches_iff (agrees_empty_iff (by rw [hi]; nofun) (by rw [ht]; exact high) low)⟩,
      fun a k w v f ht high hi => ⟨fun a' k' w' v' f' => scanMatches_iff (agrees_wide_wide ht hi),
        fun a' k' v' f' => scanMatches_iff (agrees_narrow_wide ht hi),
        fun low => scanMatches_iff (agrees_empty_iff (by rw [hi]; nofun) (by rw [ht]; exact high) low)⟩,
      fun f u p g ht high hi => ⟨fun f' u' p' g' => scanMatches_iff (agrees_route_route ht hi),
        fun low => scanMatches_iff (agrees_empty_iff (by rw [hi]; nofun) (by rw [ht]; exact high) low)⟩,
      fun hs hi => ⟨scanMatches_iff ((agrees_state_iff hs).trans (by rw [hi]; exact iff_true_intro rfl)),
        fun e he => scanMatches_iff ((agrees_state_iff hs).trans (by rw [hi]; exact iff_false_intro (stateNum_ne_zero he)))⟩⟩

end Sys2Proof.Machine

/-! PROOFS. The links (files 08 and 09), one: SET LINK ROLE, SET REPORT LINK, READ LINK COUNTERS, and the debounce of the receive
signal. -/

namespace Sys2Proof.Machine

/-! ### The link commands (R150, R160, R161) -/

theorem role?_none : ∀ {n : Nat}, n = 0 ∨ 3 < n → role? n = none
  | 0, _ => rfl
  | 1, h | 2, h | 3, h => by omega
  | _ + 4, _ => rfl

theorem linkNum_of_ofNat? {n : Nat} {l : Link} (h : Link.ofNat? n = some l) : l.num = n := by
  obtain rfl | rfl : n = 0 ∨ n = 1 := by have := linkOfNat?_le h; omega
  all_goals cases h; rfl

theorem LinkState.words_eq (x : LinkState) :
    x.words =
      [if x.up then 0 else 1, wordNat x.counters.good, wordNat x.counters.badCheck, wordNat x.counters.badForm,
        wordNat x.counters.engineStopped, wordNat x.counters.discarded, wordNat x.counters.stray, wordNat x.counters.drained,
        wordNat x.counters.controlDropped] := by
  rw [LinkState.words]
  cases x.up <;> rfl

section
variable {s : State} {h : Hdr} {a : Ask} {link role clear : Nat}

theorem own_link_badIndex {i : Instr}
    (hi : (∃ role, i = .setLinkRole h link role) ∨ i = .setReportLink h link ∨ ∃ clear, i = .readLinkCounters h link clear)
    (hl : 1 < link) : s.own i a = s.refuse a .badIndex [] := by
  have unknown := Link.ofNat?_none hl
  rcases hi with ⟨role, rfl⟩ | rfl | ⟨clear, rfl⟩
  · show s.ownSetLinkRole a link role = _
    rw [State.ownSetLinkRole, unknown]
  · show s.ownSetReportLink a link = _
    rw [State.ownSetReportLink, unknown]
  · show s.ownReadLinkCounters a link clear = _
    rw [State.ownReadLinkCounters, unknown]

variable {l : Link} (hl : Link.ofNat? link = some l)
include hl

theorem own_setLinkRole_bad (hr : role = 0 ∨ 3 < role) : s.own (.setLinkRole h link role) a = s.refuse a .badOperand [] := by
  show s.ownSetLinkRole a link role = _
  rw [State.ownSetLinkRole, hl]
  dsimp only
  rw [role?_none hr]

theorem own_setLinkRole {r : Role} (hr : role? role = some r) :
    s.own (.setLinkRole h link role) a =
      { s with roles := s.roles.set l r }.reply a .ok [wordNat (s.roles.get l).num, wordNat r.num] := by
  show s.ownSetLinkRole a link role = _
  rw [State.ownSetLinkRole, hl]
  dsimp only
  rw [hr]

theorem own_setReportLink :
    s.own (.setReportLink h link) a =
      { s with reportLink := l }.reply a .ok [wordNat s.reportLink.num, wordNat link] := by
  show s.ownSetReportLink a link = _
  rw [State.ownSetReportLink, hl, ← linkNum_of_ofNat? hl]

theorem own_readLinkCounters_bad (hc : 1 < clear) : s.own (.readLinkCounters h link clear) a = s.refuse a .badOperand [] := by
  show s.ownReadLinkCounters a link clear = _
  rw [State.ownReadLinkCounters, hl]
  dsimp only
  rw [onOff?_none hc]

theorem own_readLinkCounters {c : Bool} (hc : onOff? clear = some c) :
    s.own (.readLinkCounters h link clear) a =
      (s.count l fun x => if c then Counters.initial else x).reply a .ok (s.links.get l).words := by
  show s.ownReadLinkCounters a link clear = _
  rw [State.ownReadLinkCounters, hl]
  dsimp only
  rw [hc]

end

/-- Settles O39: the refusals, then the three commands with good operands. -/
theorem linkCommandsAct : Obligations.LinkCommandsAct := by
  refine ⟨fun i h link s rd => ⟨fun hi hl => ?badIndex, ?badRole, ?badClear⟩, fun h link l s hl =>
    ⟨fun role r hr rd => exec_of_own rd (own_setLinkRole (s := s.handed h) hl hr),
      fun rd => exec_of_own rd (own_setReportLink (s := s.handed h) hl),
      fun clear c hc rd => exec_of_own rd ((own_readLinkCounters (s := s.handed h) hl hc).trans ?counters)⟩⟩
  case counters => rw [LinkState.words_eq]; rfl
  case badIndex =>
    have subject : subjectOf i = .link link := by
      rcases hi with ⟨role, rfl⟩ | rfl | ⟨clear, rfl⟩ <;> rfl
    refine exec_of_own rd ?_
    rw [subject]
    exact own_link_badIndex (s := s.handed h) hi hl
  case badRole =>
    rintro role rfl hl hr
    obtain ⟨l, hl⟩ := linkOfNat?_known hl
    exact exec_of_own rd (own_setLinkRole_bad hl hr)
  case badClear =>
    rintro clear rfl hl hc
    obtain ⟨l, hl⟩ := linkOfNat?_known hl
    exact exec_of_own rd (own_readLinkCounters_bad hl hc)

/-! ### The debounce (R140, R142) -/

theorem disagrees_iff {up : Bool} {hist : List Bool} : disagrees up hist = true ↔ hist = [!up, !up, !up] := by
  rw [disagrees, Bool.and_eq_true, beq_iff_eq]
  constructor
  · rintro ⟨hl, ha⟩
    obtain ⟨x, y, z, rfl⟩ := List.length_eq_three.1 hl
    revert ha
    cases up <;> cases x <;> cases y <;> cases z <;> decide
  · rintro rfl
    cases up <;> decide

section
variable {s : State} {l : Link} {p : Bool} {hist : List Bool} (hh : debounce (s.links.get l).history p = hist)
include hh

theorem linkSample_keeps (hd : hist ≠ [!(s.links.get l).up, !(s.links.get l).up, !(s.links.get l).up]) :
    s.linkSample l p = { s with links := s.links.set l { s.links.get l with history := hist } } := by
  subst hh
  exact if_neg (mt disagrees_iff.1 hd)

theorem linkSample_up (hu : (s.links.get l).up = false) (hd : hist = [true, true, true]) :
    s.linkSample l p =
      { s with links := s.links.set l { s.links.get l with up := true, history := hist } }.plainEvent .link (.link l.num) [0] := by
  subst hh
  refine (if_pos (disagrees_iff.2 (by rw [hd, hu]; rfl))).trans ?_
  simp only [hu]
  rfl

theorem linkSample_down (hu : (s.links.get l).up = true) (hd : hist = [false, false, false]) :
    s.linkSample l p =
      (State.egressDown { s with links := s.links.set l { s.links.get l with up := false, history := hist } } l).plainEvent .link
        (.link l.num) [1] := by
  subst hh
  refine (if_pos (disagrees_iff.2 (by rw [hd, hu]; rfl))).trans ?_
  simp only [hu]
  rfl

end

/-! ### What link loss does to the windows -/

/-- The windows after the loss of the pass-through frames of `q`. -/
def State.dropAll (s : State) (q : List PassFrame) : State := q.foldl (fun t p => t.dropPass p.window) s

theorem dropAll_windows :
    ∀ (q : List PassFrame) (s : State), s.dropAll q = { s with windows := (s.dropAll q).windows }
  | [], _ => rfl
  | p :: q, s => dropAll_windows q (s.dropPass p.window)

theorem window_dropPass (s : State) (n w : Nat) :
    (s.dropPass n).window w =
      if n = w then { s.window w with drops := min ((s.window w).drops + 1) 4294967295 } else s.window w := by
  refine (window_setWindow ..).trans ?_
  by_cases h : n = w
  · subst h; rw [if_pos rfl, if_pos rfl]; rfl
  · rw [if_neg h, if_neg h]

/-- Each frame lost is one drop more, up to saturation. -/
theorem window_dropAll (w : Nat) :
    ∀ (q : List PassFrame) (s : State),
      (s.dropAll q).window w =
        if (q.countP fun p => decide (p.window = w)) = 0 then s.window w
        else { s.window w with drops := min ((s.window w).drops + q.countP fun p => decide (p.window = w)) 4294967295 }
  | [], s => rfl
  | p :: q, s => by
    refine (window_dropAll w q (s.dropPass p.window)).trans ?_
    rw [window_dropPass, List.countP_cons]
    by_cases hw : p.window = w
    · simp only [hw, decide_true, if_true, Nat.add_eq_zero_iff, Nat.succ_ne_self, and_false, if_false]
      split
      · simp [*]
      · congr 1
        omega
    · simp [hw]

theorem egressDown_eq (s : State) (l : Link) :
    s.egressDown l =
      (s.setArb l
        { s.arb l with passCredit := 0, reportCredit := 0, passQueue := [], flowQueue := [], due := none, sending := none }).dropAll
        (s.arb l).passQueue := rfl

/-- Settles O40: the sample joins the history; then the link stays, comes UP, or goes DOWN. -/
theorem linkSamplesAreDebounced : Obligations.LinkSamplesAreDebounced := by
  intro l p s he x hist
  have hh : debounce (s.links.get l).history p = hist := rfl
  have sampled {t : State} (e : s.linkSample l p = t) : exec (.linkSample l p) s = .next t.settle := by
    rw [← e]
    exact congrArg Host.Outcome.next (if_neg he)
  refine ⟨fun hd => sampled (linkSample_keeps hh hd), fun hu hd => sampled (linkSample_up hh hu hd), fun hu hd => ?down⟩
  case down =>
    refine ⟨_, sampled (linkSample_down hh hu hd), ?_, fun w => ?_⟩
    · rw [egressDown_eq]
      exact dropAll_windows ..
    · rw [egressDown_eq, window_dropAll]
      exact ⟨fun h0 => if_pos h0, fun hn => if_neg (Nat.ne_of_gt hn)⟩

end Sys2Proof.Machine

/-! PROOFS. Commands as bytes (file 08, R152 and R164): numbers and their bytes, the command layout read back, and what a command
read keeps of its bytes. -/

namespace Sys2Proof.Machine

/-! ### Numbers and their bytes -/

theorem nat1_byte {n : Nat} (h : fits1 n = true) : nat1 (BitVec.ofNat 8 n) = n := by
  have := of_decide_eq_true h
  rw [nat1, BitVec.toNat_ofNat]
  omega

/-- Two bytes hold a number up to a multiple of 65,536. -/
theorem nat2_mod (n : Nat) : nat2 (BitVec.ofNat 8 (n / 256)) (BitVec.ofNat 8 n) = n % 65536 := by
  rw [nat2, BitVec.toNat_ofNat, BitVec.toNat_ofNat]
  omega

theorem nat2_bytes {n : Nat} (h : fits2 n = true) : nat2 (BitVec.ofNat 8 (n / 256)) (BitVec.ofNat 8 n) = n := by
  have := of_decide_eq_true h
  rw [nat2_mod]
  omega

theorem nat4_bytes {n : Nat} (h : n < 4294967296) :
    nat4 (BitVec.ofNat 8 (n / 65536 / 256)) (BitVec.ofNat 8 (n / 65536)) (BitVec.ofNat 8 (n / 256)) (BitVec.ofNat 8 n) = n := by
  rw [nat4, nat2_mod, nat2_mod]
  omega

theorem nat6_bytes {n : Nat} (h : fits6 n = true) :
    nat6 (BitVec.ofNat 8 (n / 65536 / 65536 / 256)) (BitVec.ofNat 8 (n / 65536 / 65536)) (BitVec.ofNat 8 (n / 65536 / 256))
      (BitVec.ofNat 8 (n / 65536)) (BitVec.ofNat 8 (n / 256)) (BitVec.ofNat 8 n) = n := by
  have := of_decide_eq_true h
  rw [nat6, nat4_bytes (by omega), nat2_mod]
  omega

theorem int3_bytes {x : Int} (h : fits3s x = true) :
    int3 (BitVec.ofNat 8 ((x % 16777216).toNat / 65536)) (BitVec.ofNat 8 ((x % 16777216).toNat / 256))
      (BitVec.ofNat 8 (x % 16777216).toNat) = x := by
  have := of_decide_eq_true h
  unfold int3
  rw [nat2_mod, BitVec.toNat_ofNat]
  dsimp only
  split <;> omega

theorem ints3_bytes : ∀ {cs : List Int}, cs.all fits3s = true → ints3 (cs.flatMap bytes3s) = some cs
  | [], _ => rfl
  | c :: cs, h => by
    rw [List.all_cons, Bool.and_eq_true] at h
    show (ints3 (cs.flatMap bytes3s)).map (int3 _ _ _ :: ·) = _
    rw [ints3_bytes h.2, int3_bytes h.1]
    rfl

/-! ### The command layout (R152) -/

/-- The bytes of a command whose code, flags and operands are not judged. -/
def RawCommand.bytes (r : RawCommand) : List Byte :=
  [r.code, r.flags] ++ bytes2 r.tag ++ [BitVec.ofNat 8 r.ops.length] ++
    (match r.timed with | some t => bytes6 t | none => []) ++ r.ops

/-- The command's fields fit their bytes, and its timed flag says whether it has a time. -/
def RawCommand.Fits (r : RawCommand) : Prop :=
  r.flags.toNat < 4 ∧ r.flags.getLsbD 1 = r.timed.isSome ∧ (∀ t, r.timed = some t → t < 2 ^ 48) ∧ r.tag < 65536 ∧
    r.ops.length < 256

theorem fits6_iff {n : Nat} : fits6 n = true ↔ n < 2 ^ 48 := decide_eq_true_iff

/-- A command is read back from its bytes, whatever stands behind them. -/
theorem readRaw_bytes {r : RawCommand} (h : RawCommand.Fits r) (rest : List Byte) :
    readRaw (RawCommand.bytes r ++ rest) = some (r, rest) := by
  obtain ⟨code, flags, tag, timed, ops⟩ := r
  obtain ⟨-, hflag, htime, htag, hlen⟩ := h
  have size : (BitVec.ofNat 8 ops.length).toNat = ops.length := by
    rw [BitVec.toNat_ofNat]; exact Nat.mod_eq_of_lt hlen
  have tag2 : nat2 (BitVec.ofNat 8 (tag / 256)) (BitVec.ofNat 8 tag) = tag := nat2_bytes (decide_eq_true htag)
  have inside : (BitVec.ofNat 8 ops.length).toNat ≤ (ops ++ rest).length := by
    rw [size, List.length_append]; exact Nat.le_add_right ..
  cases timed with
  | none =>
    have untimed : ¬ flags.getLsbD 1 = true := by rw [show flags.getLsbD 1 = false from hflag]; nofun
    refine (if_neg untimed).trans ((if_pos inside).trans ?_)
    show some (RawCommand.mk code flags (nat2 _ _) none ((ops ++ rest).take _), (ops ++ rest).drop _) = _
    rw [size, tag2, List.take_left, List.drop_left]
  | some t =>
    refine (if_pos hflag).trans ((if_pos inside).trans ?_)
    show some (RawCommand.mk code flags (nat2 _ _) (some (nat6 _ _ _ _ _ _)) ((ops ++ rest).take _), (ops ++ rest).drop _) = _
    rw [size, tag2, nat6_bytes (fits6_iff.2 (htime t rfl)), List.take_left, List.drop_left]

section
variable {f0 : Hdr → Instr} {f1 : Hdr → Nat → Instr} {f2 : Hdr → Nat → Nat → Instr} {f3 : Hdr → Nat → Nat → Nat → Instr}
  {f4 : Hdr → Nat → Nat → Nat → Nat → Instr} {h : Hdr} {a b c d : Nat}

/-! Operands that fit their bytes, read back, one lemma for each layout. -/

theorem readOps1_bytes (fit : fits1 a = true) : readOps1 f1 h (bytes1 a) = f1 h a := by
  show f1 h (nat1 (BitVec.ofNat 8 a)) = _
  rw [nat1_byte fit]

theorem readOps2_bytes (fit : fits2 a = true) : readOps2 f1 h (bytes2 a) = f1 h a := by
  show f1 h (nat2 (BitVec.ofNat 8 (a / 256)) (BitVec.ofNat 8 a)) = _
  rw [nat2_bytes fit]

theorem readOps4_bytes (fit : a < 4294967296) : readOps4 f1 h (bytes4 a) = f1 h a := congrArg (f1 h) (nat4_bytes fit)

theorem readOps6_bytes (fit : fits6 a = true) : readOps6 f1 h (bytes6 a) = f1 h a := congrArg (f1 h) (nat6_bytes fit)

theorem readOps11_bytes (fit : (fits1 a && fits1 b) = true) : readOps11 f2 h (bytes1 a ++ bytes1 b) = f2 h a b := by
  obtain ⟨ha, hb⟩ := Bool.and_eq_true_iff.1 fit
  show f2 h (nat1 (BitVec.ofNat 8 a)) (nat1 (BitVec.ofNat 8 b)) = _
  rw [nat1_byte ha, nat1_byte hb]

theorem readOps12_bytes (fit : (fits1 a && fits2 b) = true) : readOps12 f2 h (bytes1 a ++ bytes2 b) = f2 h a b := by
  obtain ⟨ha, hb⟩ := Bool.and_eq_true_iff.1 fit
  show f2 h (nat1 (BitVec.ofNat 8 a)) (nat2 (BitVec.ofNat 8 (b / 256)) (BitVec.ofNat 8 b)) = _
  rw [nat1_byte ha, nat2_bytes hb]

theorem readOps22_bytes (fit : (fits2 a && fits2 b) = true) : readOps22 f2 h (bytes2 a ++ bytes2 b) = f2 h a b := by
  obtain ⟨ha, hb⟩ := Bool.and_eq_true_iff.1 fit
  show f2 h (nat2 (BitVec.ofNat 8 (a / 256)) (BitVec.ofNat 8 a)) (nat2 (BitVec.ofNat 8 (b / 256)) (BitVec.ofNat 8 b)) = _
  rw [nat2_bytes ha, nat2_bytes hb]

theorem readOps111_bytes (fit : (fits1 a && fits1 b && fits1 c) = true) :
    readOps111 f3 h (bytes1 a ++ bytes1 b ++ bytes1 c) = f3 h a b c := by
  simp only [Bool.and_eq_true] at fit
  obtain ⟨⟨ha, hb⟩, hc⟩ := fit
  show f3 h (nat1 (BitVec.ofNat 8 a)) (nat1 (BitVec.ofNat 8 b)) (nat1 (BitVec.ofNat 8 c)) = _
  rw [nat1_byte ha, nat1_byte hb, nat1_byte hc]

theorem readOps122_bytes (fit : (fits1 a && fits2 b && fits2 c) = true) :
    readOps122 f3 h (bytes1 a ++ bytes2 b ++ bytes2 c) = f3 h a b c := by
  simp only [Bool.and_eq_true] at fit
  obtain ⟨⟨ha, hb⟩, hc⟩ := fit
  show f3 h (nat1 (BitVec.ofNat 8 a)) (nat2 (BitVec.ofNat 8 (b / 256)) (BitVec.ofNat 8 b))
    (nat2 (BitVec.ofNat 8 (c / 256)) (BitVec.ofNat 8 c)) = _
  rw [nat1_byte ha, nat2_bytes hb, nat2_bytes hc]

theorem readOps222_bytes (fit : (fits2 a && fits2 b && fits2 c) = true) :
    readOps222 f3 h (bytes2 a ++ bytes2 b ++ bytes2 c) = f3 h a b c := by
  simp only [Bool.and_eq_true] at fit
  obtain ⟨⟨ha, hb⟩, hc⟩ := fit
  show f3 h (nat2 (BitVec.ofNat 8 (a / 256)) (BitVec.ofNat 8 a)) (nat2 (BitVec.ofNat 8 (b / 256)) (BitVec.ofNat 8 b))
    (nat2 (BitVec.ofNat 8 (c / 256)) (BitVec.ofNat 8 c)) = _
  rw [nat2_bytes ha, nat2_bytes hb, nat2_bytes hc]

theorem readOps1222_bytes (fit : (fits1 a && fits2 b && fits2 c && fits2 d) = true) :
    readOps1222 f4 h (bytes1 a ++ bytes2 b ++ bytes2 c ++ bytes2 d) = f4 h a b c d := by
  simp only [Bool.and_eq_true] at fit
  obtain ⟨⟨⟨ha, hb⟩, hc⟩, hd⟩ := fit
  show f4 h (nat1 (BitVec.ofNat 8 a)) (nat2 (BitVec.ofNat 8 (b / 256)) (BitVec.ofNat 8 b))
    (nat2 (BitVec.ofNat 8 (c / 256)) (BitVec.ofNat 8 c)) (nat2 (BitVec.ofNat 8 (d / 256)) (BitVec.ofNat 8 d)) = _
  rw [nat1_byte ha, nat2_bytes hb, nat2_bytes hc, nat2_bytes hd]

theorem readOps1111_bytes (fit : (fits1 a && fits1 b && fits1 c && fits1 d) = true) :
    readOps1111 f4 h (bytes1 a ++ bytes1 b ++ bytes1 c ++ bytes1 d) = f4 h a b c d := by
  simp only [Bool.and_eq_true] at fit
  obtain ⟨⟨⟨ha, hb⟩, hc⟩, hd⟩ := fit
  show f4 h (nat1 (BitVec.ofNat 8 a)) (nat1 (BitVec.ofNat 8 b)) (nat1 (BitVec.ofNat 8 c)) (nat1 (BitVec.ofNat 8 d)) = _
  rw [nat1_byte ha, nat1_byte hb, nat1_byte hc, nat1_byte hd]

theorem readOps1112_bytes (fit : (fits1 a && fits1 b && fits1 c && fits2 d) = true) :
    readOps1112 f4 h (bytes1 a ++ bytes1 b ++ bytes1 c ++ bytes2 d) = f4 h a b c d := by
  simp only [Bool.and_eq_true] at fit
  obtain ⟨⟨⟨ha, hb⟩, hc⟩, hd⟩ := fit
  show f4 h (nat1 (BitVec.ofNat 8 a)) (nat1 (BitVec.ofNat 8 b)) (nat1 (BitVec.ofNat 8 c))
    (nat2 (BitVec.ofNat 8 (d / 256)) (BitVec.ofNat 8 d)) = _
  rw [nat1_byte ha, nat1_byte hb, nat1_byte hc, nat2_bytes hd]

end

section
variable {h : Hdr}

/-! The commands whose layouts are their own. -/

theorem readScan_bytes {t a n s m : Nat} (fit : (fits1 t && fits2 a && fits2 n && fits2 s && fits1 m) = true) :
    readCommand h 0x4A (bytes1 t ++ bytes2 a ++ bytes2 n ++ bytes2 s ++ bytes1 m) = .scan h t a n s m := by
  simp only [Bool.and_eq_true] at fit
  obtain ⟨⟨⟨⟨ht, ha⟩, hn⟩, hs⟩, hm⟩ := fit
  show Instr.scan h (nat1 (BitVec.ofNat 8 t)) (nat2 (BitVec.ofNat 8 (a / 256)) (BitVec.ofNat 8 a))
    (nat2 (BitVec.ofNat 8 (n / 256)) (BitVec.ofNat 8 n)) (nat2 (BitVec.ofNat 8 (s / 256)) (BitVec.ofNat 8 s))
    (nat1 (BitVec.ofNat 8 m)) = _
  rw [nat1_byte ht, nat2_bytes ha, nat2_bytes hn, nat2_bytes hs, nat1_byte hm]

theorem readSetWindow_bytes {w e f b m t d c : Nat}
    (fit : (fits1 w && fits1 e && fits1 f && fits2 b && fits2 m && fits2 t && fits1 d && fits1 c) = true) :
    readSetWindow h (bytes1 w ++ bytes1 e ++ bytes1 f ++ bytes2 b ++ bytes2 m ++ bytes2 t ++ bytes1 d ++ bytes1 c) =
      .setWindow h w e f b m t d c := by
  simp only [Bool.and_eq_true] at fit
  obtain ⟨⟨⟨⟨⟨⟨⟨hw, he⟩, hf⟩, hb⟩, hm⟩, ht⟩, hd⟩, hc⟩ := fit
  show Instr.setWindow h (nat1 (BitVec.ofNat 8 w)) (nat1 (BitVec.ofNat 8 e)) (nat1 (BitVec.ofNat 8 f))
    (nat2 (BitVec.ofNat 8 (b / 256)) (BitVec.ofNat 8 b)) (nat2 (BitVec.ofNat 8 (m / 256)) (BitVec.ofNat 8 m))
    (nat2 (BitVec.ofNat 8 (t / 256)) (BitVec.ofNat 8 t)) (nat1 (BitVec.ofNat 8 d)) (nat1 (BitVec.ofNat 8 c)) = _
  rw [nat1_byte hw, nat1_byte he, nat1_byte hf, nat2_bytes hb, nat2_bytes hm, nat2_bytes ht, nat1_byte hd, nat1_byte hc]

theorem readOpenFeed_bytes {f r k p t a l : Nat} {st : Option Nat}
    (fit : (Instr.openFeed h f r k p t a l st).operandsFit = true) :
    readOpenFeed h (Instr.openFeed h f r k p t a l st).operands = .openFeed h f r k p t a l st := by
  simp only [Instr.operandsFit, Bool.and_eq_true] at fit
  obtain ⟨⟨⟨⟨⟨⟨⟨hf, hr⟩, hk⟩, hp⟩, ht⟩, ha⟩, hl⟩, hst⟩ := fit
  have start : readOpenFeed h (Instr.openFeed h f r k p t a l st).operands =
      .openFeed h (nat1 (BitVec.ofNat 8 f)) (nat1 (BitVec.ofNat 8 r)) (nat1 (BitVec.ofNat 8 k)) (nat1 (BitVec.ofNat 8 p))
        (nat2 (BitVec.ofNat 8 (t / 256)) (BitVec.ofNat 8 t)) (nat1 (BitVec.ofNat 8 a)) (nat1 (BitVec.ofNat 8 l)) st := by
    cases st with
    | none => rfl
    | some x => exact congrArg (fun y => Instr.openFeed _ _ _ _ _ _ _ _ (some y)) (nat6_bytes hst)
  rw [start, nat1_byte hf, nat1_byte hr, nat1_byte hk, nat1_byte hp, nat2_bytes ht, nat1_byte ha, nat1_byte hl]

theorem readRetuneFeed_bytes {f r : Nat} {k : Option Nat}
    (fit : (Instr.retuneFeed h f r k).operandsFit = true) :
    readRetuneFeed h (Instr.retuneFeed h f r k).operands = .retuneFeed h f r k := by
  simp only [Instr.operandsFit, Bool.and_eq_true] at fit
  obtain ⟨⟨hf, hr⟩, hk⟩ := fit
  cases k with
  | none =>
    show Instr.retuneFeed h (nat1 (BitVec.ofNat 8 f)) (nat1 (BitVec.ofNat 8 r)) none = _
    rw [nat1_byte hf, nat1_byte hr]
  | some x =>
    show Instr.retuneFeed h (nat1 (BitVec.ofNat 8 f)) (nat1 (BitVec.ofNat 8 r)) (some (nat1 (BitVec.ofNat 8 x))) = _
    rw [nat1_byte hf, nat1_byte hr, nat1_byte hk]

theorem readReadPool_bytes {p : Nat} {n : Option Nat}
    (fit : (Instr.readPool h p n).operandsFit = true) :
    readReadPool h (Instr.readPool h p n).operands = .readPool h p n := by
  obtain ⟨hp, hn⟩ := Bool.and_eq_true_iff.1 fit
  cases n with
  | none =>
    show Instr.readPool h (nat1 (BitVec.ofNat 8 p)) none = _
    rw [nat1_byte hp]
  | some x =>
    show Instr.readPool h (nat1 (BitVec.ofNat 8 p)) (some (nat2 (BitVec.ofNat 8 (x / 256)) (BitVec.ofNat 8 x))) = _
    rw [nat1_byte hp, nat2_bytes hn]

theorem narrowKey_bytes {k : NarrowKey} (fit : k.fits = true) :
    (⟨nat1 (BitVec.ofNat 8 k.linkV), nat1 (BitVec.ofNat 8 k.linkC), nat2 (BitVec.ofNat 8 (k.streamV / 256)) (BitVec.ofNat 8 k.streamV),
      nat2 (BitVec.ofNat 8 (k.streamC / 256)) (BitVec.ofNat 8 k.streamC), nat1 (BitVec.ofNat 8 k.classV),
      nat1 (BitVec.ofNat 8 k.classC)⟩ : NarrowKey) = k := by
  simp only [NarrowKey.fits, Bool.and_eq_true] at fit
  obtain ⟨⟨⟨⟨⟨h1, h2⟩, h3⟩, h4⟩, h5⟩, h6⟩ := fit
  rw [nat1_byte h1, nat1_byte h2, nat2_bytes h3, nat2_bytes h4, nat1_byte h5, nat1_byte h6]

theorem wideKey_bytes {w : WideKey} (fit : w.fits = true) :
    (⟨nat1 (BitVec.ofNat 8 w.programV), nat1 (BitVec.ofNat 8 w.programC), nat1 (BitVec.ofNat 8 w.languageV),
      nat1 (BitVec.ofNat 8 w.languageC), nat1 (BitVec.ofNat 8 w.rateV), nat1 (BitVec.ofNat 8 w.rateC)⟩ : WideKey) = w := by
  simp only [WideKey.fits, Bool.and_eq_true] at fit
  obtain ⟨⟨⟨⟨⟨h1, h2⟩, h3⟩, h4⟩, h5⟩, h6⟩ := fit
  rw [nat1_byte h1, nat1_byte h2, nat1_byte h3, nat1_byte h4, nat1_byte h5, nat1_byte h6]

theorem readStageRule_bytes {k s v f : Nat} {key : NarrowKey} {w : Option WideKey}
    (fit : (Instr.stageRule h k s key w v f).operandsFit = true) :
    readStageRule h (Instr.stageRule h k s key w v f).operands = .stageRule h k s key w v f := by
  simp only [Instr.operandsFit, Bool.and_eq_true] at fit
  obtain ⟨⟨⟨⟨⟨hk, hs⟩, hkey⟩, hw⟩, hv⟩, hf⟩ := fit
  have fixed : ∀ w', (Instr.stageRule h (nat1 (BitVec.ofNat 8 k)) (nat1 (BitVec.ofNat 8 s)) key w' (nat1 (BitVec.ofNat 8 v))
      (nat1 (BitVec.ofNat 8 f))) = .stageRule h k s key w' v f := fun w' => by
    rw [nat1_byte hk, nat1_byte hs, nat1_byte hv, nat1_byte hf]
  cases w with
  | none =>
    refine Eq.trans ?_ (fixed none)
    exact congrArg (fun y => Instr.stageRule _ _ _ y _ _ _) (narrowKey_bytes hkey)
  | some x =>
    refine Eq.trans ?_ (fixed (some x))
    exact congrArg₂ (fun y z => Instr.stageRule _ _ _ y (some z) _ _) (narrowKey_bytes hkey) (wideKey_bytes hw)

theorem readLoadKernelRows_bytes {s f n : Nat} {cs : List Int}
    (fit : (fits1 s && fits1 f && fits1 n && cs.all fits3s &&
      (cs.length == 16 || cs.length == 32 || cs.length == 48 || cs.length == 64)) = true) :
    readLoadKernelRows h (bytes1 s ++ bytes1 f ++ bytes1 n ++ cs.flatMap bytes3s) = .loadKernelRows h s f n cs := by
  simp only [Bool.and_eq_true, Bool.or_eq_true, beq_iff_eq, or_assoc] at fit
  obtain ⟨⟨⟨⟨hs, hf⟩, hn⟩, hcs⟩, hl⟩ := fit
  show (match ints3 (cs.flatMap bytes3s) with
    | some cs =>
      if cs.length = 16 ∨ cs.length = 32 ∨ cs.length = 48 ∨ cs.length = 64 then
        Instr.loadKernelRows h (nat1 (BitVec.ofNat 8 s)) (nat1 (BitVec.ofNat 8 f)) (nat1 (BitVec.ofNat 8 n)) cs
      else .loadKernelRows h.bad 0 0 0 []
    | none => .loadKernelRows h.bad 0 0 0 []) = _
  rw [ints3_bytes hcs, nat1_byte hs, nat1_byte hf, nat1_byte hn]
  exact if_pos hl

/-- A code outside the table is read as itself. -/
theorem readCommand_unknown {c : Nat} (hc : knownCode c = false) : readCommand h c [] = .unknownCommand h c := by
  unfold readCommand
  split
  case h_54 => rfl
  all_goals exact absurd hc (by decide)

end

/-- Every command whose operands fit is read back from its code and its operand bytes. -/
theorem readCommand_operands :
    ∀ (i : Instr) (h : Hdr), i.hdr? = some h → i.operandsFit = true → readCommand h i.code i.operands = i
  | .unknownCommand .., _, rfl, fit => readCommand_unknown (Bool.not_eq_true' _ ▸ (Bool.and_eq_true_iff.1 fit).2)
  | .startEngine _, _, rfl, _ | .stopEngine _, _, rfl, _ | .resetDevice _, _, rfl, _ | .readTime _, _, rfl, _
  | .readCues _, _, rfl, _ | .clearStaging _, _, rfl, _ | .suspendBlock _, _, rfl, _ | .resumeBlock _, _, rfl, _
  | .abandonBlock _, _, rfl, _ => rfl
  | .setHouseRate .., _, rfl, fit => readOps4_bytes (of_decide_eq_true fit)
  | .setHouseTime .., _, rfl, fit => readOps6_bytes fit
  | .enableBus .., _, rfl, fit | .disableBus .., _, rfl, fit | .readBus .., _, rfl, fit | .validateKernelSet .., _, rfl, fit
  | .holdFeed .., _, rfl, fit | .releaseFeed .., _, rfl, fit | .setReportLink .., _, rfl, fit => readOps1_bytes fit
  | .cancelCues .., _, rfl, fit | .setLateTolerance .., _, rfl, fit | .enableRule .., _, rfl, fit
  | .disableRule .., _, rfl, fit => readOps2_bytes fit
  | .setLinkFraming .., _, rfl, fit | .setBusMute .., _, rfl, fit | .setBusLink .., _, rfl, fit
  | .ackBusEvents .., _, rfl, fit | .closeFeed .., _, rfl, fit | .readFeed .., _, rfl, fit | .ackFeedEvents .., _, rfl, fit
  | .readWindow .., _, rfl, fit | .readDefaultRule .., _, rfl, fit | .assignBank .., _, rfl, fit
  | .setLinkRole .., _, rfl, fit | .readLinkCounters .., _, rfl, fit => readOps11_bytes fit
  | .setBusTrim .., _, rfl, fit | .setBusDelay .., _, rfl, fit | .setFeedTarget .., _, rfl, fit
  | .writeEntry .., _, rfl, fit | .readEntry .., _, rfl, fit => readOps12_bytes fit
  | .clearHits .., _, rfl, fit => readOps22_bytes fit
  | .setBusMode .., _, rfl, fit => readOps111_bytes fit
  | .fill .., _, rfl, fit => readOps122_bytes fit
  | .setRouteGain .., _, rfl, fit => readOps222_bytes fit
  | .move .., _, rfl, fit => readOps1222_bytes fit
  | .setDefaultRule .., _, rfl, fit => readOps1111_bytes fit
  | .stageRoute .., _, rfl, fit => readOps1112_bytes fit
  | .scan .., _, rfl, fit => readScan_bytes fit
  | .setWindow .., _, rfl, fit => readSetWindow_bytes fit
  | .openFeed .., _, rfl, fit => readOpenFeed_bytes fit
  | .retuneFeed .., _, rfl, fit => readRetuneFeed_bytes fit
  | .readPool .., _, rfl, fit => readReadPool_bytes fit
  | .stageRule .., _, rfl, fit => readStageRule_bytes fit
  | .loadKernelRows .., _, rfl, fit => readLoadKernelRows_bytes fit

end Sys2Proof.Machine

/-! PROOFS. Bytes (file 08), two: what a command read keeps of its bytes, and the layout of the frames the device sends. -/

namespace Sys2Proof.Machine

/-! ### Commands read (R152, R164) -/

/-- The command codes, grouped by the operand lengths that they allow. -/
def codeLengths : List (List Nat × List Nat) :=
  [([0x01, 0x02, 0x03, 0x07, 0x31, 0x43, 0x4C, 0x4D, 0x4E], [0]), ([0x11, 0x12, 0x18, 0x21, 0x26, 0x27, 0x51], [1]),
    ([0x06, 0x14, 0x17, 0x19, 0x23, 0x28, 0x29, 0x30, 0x32, 0x39, 0x3B, 0x40, 0x46, 0x47, 0x50, 0x52], [2]),
    ([0x13, 0x15, 0x16, 0x25, 0x44, 0x45], [3]), ([0x04, 0x3A, 0x4B], [4]), ([0x42, 0x49], [5]), ([0x05, 0x10], [6]),
    ([0x48], [7]), ([0x4A], [8]), ([0x38], [11]), ([0x22], [8, 14]), ([0x24], [2, 3]), ([0x2A], [1, 3]), ([0x41], [12, 18]),
    ([0x20], [51, 99, 147, 195])]

/-- The table lists code `c` once, with the lengths `lens`. -/
def Listed (c : Nat) (lens : List Nat) : Prop := (codeLengths.filter fun g => decide (c ∈ g.1)).map (·.2) = [lens]

theorem Listed.length_iff {c n : Nat} {lens : List Nat} (h : Listed c lens) :
    (∀ g ∈ codeLengths, c ∈ g.1 → n ∈ g.2) ↔ n ∈ lens := by
  have mem (ls : List Nat) : ls = lens ↔ ∃ g ∈ codeLengths, c ∈ g.1 ∧ g.2 = ls := by
    rw [← List.mem_singleton, ← h]
    simp [and_assoc]
  constructor
  · intro all
    obtain ⟨g, hg, hc, e⟩ := (mem lens).1 rfl
    exact e ▸ all g hg hc
  · intro hn g hg hc
    rw [(mem g.2).2 ⟨g, hg, hc, rfl⟩]
    exact hn

theorem Listed.not_unlisted {c : Nat} {lens : List Nat} (h : Listed c lens) : ¬ ∀ g ∈ codeLengths, c ∉ g.1 := by
  intro none
  have empty : (codeLengths.filter fun g => decide (c ∈ g.1)) = [] := List.filter_eq_nil_iff.2 fun g hg => by simp [none g hg]
  rw [Listed, empty] at h
  cases h

/-- A known command of code `c` with header `h`. -/
def IsCommand (c : Nat) (h : Hdr) (i : Instr) : Prop := isUnknown i = false ∧ i.code = c ∧ i.hdr? = some h

/-- A command of code `c` read with header `h` from `n` operand bytes, whose lengths are `lens`. -/
def ReadsAs (c : Nat) (lens : List Nat) (h : Hdr) (n : Nat) (i : Instr) : Prop :=
  (n ∈ lens ∧ IsCommand c h i) ∨ (n ∉ lens ∧ IsCommand c h.bad i)

section
variable {c : Nat} {h : Hdr} {ops : List Byte}

/-! Each layout reads its own length, and no other. -/

theorem readsAs_ops0 {f : Hdr → Instr} (hf : ∀ h, IsCommand c h (f h)) : ReadsAs c [0] h ops.length (readOps0 f h ops) := by
  unfold readOps0
  split
  case h_1 => exact .inl ⟨by simp, hf h⟩
  case h_2 no =>
    refine .inr ⟨fun hl => ?_, hf h.bad⟩
    match ops, List.mem_singleton.1 hl, no with
    | [], _, no => exact no rfl

theorem readsAs_ops1 {f : Hdr → Nat → Instr} (hf : ∀ h x, IsCommand c h (f h x)) :
    ReadsAs c [1] h ops.length (readOps1 f h ops) := by
  unfold readOps1
  split
  case h_1 => exact .inl ⟨by simp, hf ..⟩
  case h_2 no =>
    refine .inr ⟨fun hl => ?_, hf ..⟩
    match ops, List.mem_singleton.1 hl, no with
    | [_], _, no => exact no _ rfl

theorem readsAs_ops2 {f : Hdr → Nat → Instr} (hf : ∀ h x, IsCommand c h (f h x)) :
    ReadsAs c [2] h ops.length (readOps2 f h ops) := by
  unfold readOps2
  split
  case h_1 => exact .inl ⟨by simp, hf ..⟩
  case h_2 no =>
    refine .inr ⟨fun hl => ?_, hf ..⟩
    match ops, List.mem_singleton.1 hl, no with
    | [_, _], _, no => exact no _ _ rfl

theorem readsAs_ops4 {f : Hdr → Nat → Instr} (hf : ∀ h x, IsCommand c h (f h x)) :
    ReadsAs c [4] h ops.length (readOps4 f h ops) := by
  unfold readOps4
  split
  case h_1 => exact .inl ⟨by simp, hf ..⟩
  case h_2 no =>
    refine .inr ⟨fun hl => ?_, hf ..⟩
    match ops, List.mem_singleton.1 hl, no with
    | [_, _, _, _], _, no => exact no _ _ _ _ rfl

theorem readsAs_ops6 {f : Hdr → Nat → Instr} (hf : ∀ h x, IsCommand c h (f h x)) :
    ReadsAs c [6] h ops.length (readOps6 f h ops) := by
  unfold readOps6
  split
  case h_1 => exact .inl ⟨by simp, hf ..⟩
  case h_2 no =>
    refine .inr ⟨fun hl => ?_, hf ..⟩
    match ops, List.mem_singleton.1 hl, no with
    | [_, _, _, _, _, _], _, no => exact no _ _ _ _ _ _ rfl

theorem readsAs_ops11 {f : Hdr → Nat → Nat → Instr} (hf : ∀ h x y, IsCommand c h (f h x y)) :
    ReadsAs c [2] h ops.length (readOps11 f h ops) := by
  unfold readOps11
  split
  case h_1 => exact .inl ⟨by simp, hf ..⟩
  case h_2 no =>
    refine .inr ⟨fun hl => ?_, hf ..⟩
    match ops, List.mem_singleton.1 hl, no with
    | [_, _], _, no => exact no _ _ rfl

theorem readsAs_ops12 {f : Hdr → Nat → Nat → Instr} (hf : ∀ h x y, IsCommand c h (f h x y)) :
    ReadsAs c [3] h ops.length (readOps12 f h ops) := by
  unfold readOps12
  split
  case h_1 => exact .inl ⟨by simp, hf ..⟩
  case h_2 no =>
    refine .inr ⟨fun hl => ?_, hf ..⟩
    match ops, List.mem_singleton.1 hl, no with
    | [_, _, _], _, no => exact no _ _ _ rfl

theorem readsAs_ops22 {f : Hdr → Nat → Nat → Instr} (hf : ∀ h x y, IsCommand c h (f h x y)) :
    ReadsAs c [4] h ops.length (readOps22 f h ops) := by
  unfold readOps22
  split
  case h_1 => exact .inl ⟨by simp, hf ..⟩
  case h_2 no =>
    refine .inr ⟨fun hl => ?_, hf ..⟩
    match ops, List.mem_singleton.1 hl, no with
    | [_, _, _, _], _, no => exact no _ _ _ _ rfl

theorem readsAs_ops111 {f : Hdr → Nat → Nat → Nat → Instr} (hf : ∀ h x y z, IsCommand c h (f h x y z)) :
    ReadsAs c [3] h ops.length (readOps111 f h ops) := by
  unfold readOps111
  split
  case h_1 => exact .inl ⟨by simp, hf ..⟩
  case h_2 no =>
    refine .inr ⟨fun hl => ?_, hf ..⟩
    match ops, List.mem_singleton.1 hl, no with
    | [_, _, _], _, no => exact no _ _ _ rfl

theorem readsAs_ops122 {f : Hdr → Nat → Nat → Nat → Instr} (hf : ∀ h x y z, IsCommand c h (f h x y z)) :
    ReadsAs c [5] h ops.length (readOps122 f h ops) := by
  unfold readOps122
  split
  case h_1 => exact .inl ⟨by simp, hf ..⟩
  case h_2 no =>
    refine .inr ⟨fun hl => ?_, hf ..⟩
    match ops, List.mem_singleton.1 hl, no with
    | [_, _, _, _, _], _, no => exact no _ _ _ _ _ rfl

theorem readsAs_ops222 {f : Hdr → Nat → Nat → Nat → Instr} (hf : ∀ h x y z, IsCommand c h (f h x y z)) :
    ReadsAs c [6] h ops.length (readOps222 f h ops) := by
  unfold readOps222
  split
  case h_1 => exact .inl ⟨by simp, hf ..⟩
  case h_2 no =>
    refine .inr ⟨fun hl => ?_, hf ..⟩
    match ops, List.mem_singleton.1 hl, no with
    | [_, _, _, _, _, _], _, no => exact no _ _ _ _ _ _ rfl

theorem readsAs_ops1222 {f : Hdr → Nat → Nat → Nat → Nat → Instr} (hf : ∀ h x y z w, IsCommand c h (f h x y z w)) :
    ReadsAs c [7] h ops.length (readOps1222 f h ops) := by
  unfold readOps1222
  split
  case h_1 => exact .inl ⟨by simp, hf ..⟩
  case h_2 no =>
    refine .inr ⟨fun hl => ?_, hf ..⟩
    match ops, List.mem_singleton.1 hl, no with
    | [_, _, _, _, _, _, _], _, no => exact no _ _ _ _ _ _ _ rfl

theorem readsAs_ops1111 {f : Hdr → Nat → Nat → Nat → Nat → Instr} (hf : ∀ h x y z w, IsCommand c h (f h x y z w)) :
    ReadsAs c [4] h ops.length (readOps1111 f h ops) := by
  unfold readOps1111
  split
  case h_1 => exact .inl ⟨by simp, hf ..⟩
  case h_2 no =>
    refine .inr ⟨fun hl => ?_, hf ..⟩
    match ops, List.mem_singleton.1 hl, no with
    | [_, _, _, _], _, no => exact no _ _ _ _ rfl

theorem readsAs_ops1112 {f : Hdr → Nat → Nat → Nat → Nat → Instr} (hf : ∀ h x y z w, IsCommand c h (f h x y z w)) :
    ReadsAs c [5] h ops.length (readOps1112 f h ops) := by
  unfold readOps1112
  split
  case h_1 => exact .inl ⟨by simp, hf ..⟩
  case h_2 no =>
    refine .inr ⟨fun hl => ?_, hf ..⟩
    match ops, List.mem_singleton.1 hl, no with
    | [_, _, _, _, _], _, no => exact no _ _ _ _ _ rfl

/-! The layouts that one command alone has. -/

theorem readsAs_setWindow : ReadsAs 0x38 [11] h ops.length (readSetWindow h ops) := by
  unfold readSetWindow
  split
  case h_1 => exact .inl ⟨by simp, rfl, rfl, rfl⟩
  case h_2 no =>
    refine .inr ⟨fun hl => ?_, rfl, rfl, rfl⟩
    match ops, List.mem_singleton.1 hl, no with
    | [_, _, _, _, _, _, _, _, _, _, _], _, no => exact no _ _ _ _ _ _ _ _ _ _ _ rfl

theorem readsAs_scan : ReadsAs 0x4A [8] h ops.length (readCommand h 0x4A ops) := by
  show ReadsAs 0x4A [8] h ops.length (match ops with
    | [t, f1, f0, c1, c0, s1, s0, m] => .scan h (nat1 t) (nat2 f1 f0) (nat2 c1 c0) (nat2 s1 s0) (nat1 m)
    | _ => .scan h.bad 0 0 0 0 0)
  split
  case h_1 => exact .inl ⟨by simp, rfl, rfl, rfl⟩
  case h_2 no =>
    refine .inr ⟨fun hl => ?_, rfl, rfl, rfl⟩
    match ops, List.mem_singleton.1 hl, no with
    | [_, _, _, _, _, _, _, _], _, no => exact no _ _ _ _ _ _ _ _ rfl

theorem mem_pair {n a b : Nat} (h : n ∈ [a, b]) : n = a ∨ n = b := by simpa using h

theorem readsAs_openFeed : ReadsAs 0x22 [8, 14] h ops.length (readOpenFeed h ops) := by
  unfold readOpenFeed
  split
  case h_1 => exact .inl ⟨by simp, rfl, rfl, rfl⟩
  case h_2 => exact .inl ⟨by simp, rfl, rfl, rfl⟩
  case h_3 short long =>
    refine .inr ⟨fun hl => ?_, rfl, rfl, rfl⟩
    rcases mem_pair hl with hl | hl
    · match ops, hl, short with
      | [_, _, _, _, _, _, _, _], _, no => exact no _ _ _ _ _ _ _ _ rfl
    · match ops, hl, long with
      | [_, _, _, _, _, _, _, _, _, _, _, _, _, _], _, no => exact no _ _ _ _ _ _ _ _ _ _ _ _ _ _ rfl

theorem readsAs_retuneFeed : ReadsAs 0x24 [2, 3] h ops.length (readRetuneFeed h ops) := by
  unfold readRetuneFeed
  split
  case h_1 => exact .inl ⟨by simp, rfl, rfl, rfl⟩
  case h_2 => exact .inl ⟨by simp, rfl, rfl, rfl⟩
  case h_3 short long =>
    refine .inr ⟨fun hl => ?_, rfl, rfl, rfl⟩
    rcases mem_pair hl with hl | hl
    · match ops, hl, short with
      | [_, _], _, no => exact no _ _ rfl
    · match ops, hl, long with
      | [_, _, _], _, no => exact no _ _ _ rfl

theorem readsAs_readPool : ReadsAs 0x2A [1, 3] h ops.length (readReadPool h ops) := by
  unfold readReadPool
  split
  case h_1 => exact .inl ⟨by simp, rfl, rfl, rfl⟩
  case h_2 => exact .inl ⟨by simp, rfl, rfl, rfl⟩
  case h_3 short long =>
    refine .inr ⟨fun hl => ?_, rfl, rfl, rfl⟩
    rcases mem_pair hl with hl | hl
    · match ops, hl, short with
      | [_], _, no => exact no _ rfl
    · match ops, hl, long with
      | [_, _, _], _, no => exact no _ _ _ rfl

theorem readsAs_stageRule : ReadsAs 0x41 [12, 18] h ops.length (readStageRule h ops) := by
  unfold readStageRule
  split
  case h_1 => exact .inl ⟨by simp, rfl, rfl, rfl⟩
  case h_2 => exact .inl ⟨by simp, rfl, rfl, rfl⟩
  case h_3 short long =>
    refine .inr ⟨fun hl => ?_, rfl, rfl, rfl⟩
    rcases mem_pair hl with hl | hl
    · match ops, hl, short with
      | [_, _, _, _, _, _, _, _, _, _, _, _], _, no => exact no _ _ _ _ _ _ _ _ _ _ _ _ rfl
    · match ops, hl, long with
      | [_, _, _, _, _, _, _, _, _, _, _, _, _, _, _, _, _, _], _, no => exact no _ _ _ _ _ _ _ _ _ _ _ _ _ _ _ _ _ _ rfl

/-- Three bytes are one coefficient, and nothing may be left over. -/
theorem ints3_length : ∀ {bs : List Byte} {cs : List Int}, ints3 bs = some cs → bs.length = 3 * cs.length
  | [], _, h => by cases h; rfl
  | [_], _, h => nomatch h
  | [_, _], _, h => nomatch h
  | a :: b :: c :: rest, cs, h => by
    obtain ⟨ds, hd, rfl⟩ := Option.map_eq_some_iff.1 h
    have := ints3_length hd
    simp only [List.length_cons]
    omega

theorem ints3_whole : ∀ {n : Nat} {bs : List Byte}, bs.length = 3 * n → ∃ cs, ints3 bs = some cs
  | 0, [], _ => ⟨[], rfl⟩
  | n + 1, a :: b :: c :: rest, h => by
    obtain ⟨cs, hc⟩ := ints3_whole (n := n) (bs := rest) (by simp only [List.length_cons] at h; omega)
    exact ⟨int3 a b c :: cs, by rw [ints3, hc]; rfl⟩
  | n + 1, [], h | n + 1, [_], h | n + 1, [_, _], h => by simp only [List.length_cons, List.length_nil] at h; omega

/-- Whole rows of sixteen coefficients, one to four of them. -/
theorem rows_iff {n : Nat} : n ∈ [51, 99, 147, 195] ↔ ∃ k, n = 3 * k + 3 ∧ (k = 16 ∨ k = 32 ∨ k = 48 ∨ k = 64) := by
  simp only [List.mem_cons, List.not_mem_nil, or_false]
  constructor
  · rintro (rfl | rfl | rfl | rfl)
    exacts [⟨16, by omega⟩, ⟨32, by omega⟩, ⟨48, by omega⟩, ⟨64, by omega⟩]
  · rintro ⟨k, rfl, hk⟩
    omega

theorem readsAs_loadKernelRows : ReadsAs 0x20 [51, 99, 147, 195] h ops.length (readLoadKernelRows h ops) := by
  unfold readLoadKernelRows
  split
  case h_1 s f n rest =>
    split
    case h_1 cs hcs =>
      have size : (s :: f :: n :: rest).length = 3 * cs.length + 3 := by rw [← ints3_length hcs]; rfl
      split
      case isTrue hl => exact .inl ⟨rows_iff.2 ⟨_, size, hl⟩, rfl, rfl, rfl⟩
      case isFalse hl =>
        refine .inr ⟨fun listed => hl ?_, rfl, rfl, rfl⟩
        obtain ⟨k, e, hk⟩ := rows_iff.1 listed
        obtain rfl : cs.length = k := by omega
        exact hk
    case h_2 hcs =>
      refine .inr ⟨fun listed => ?_, rfl, rfl, rfl⟩
      obtain ⟨k, e, -⟩ := rows_iff.1 listed
      obtain ⟨cs, hc⟩ := ints3_whole (n := k) (bs := rest) (by simp only [List.length_cons] at e; omega)
      rw [hcs] at hc
      cases hc
  case h_2 no =>
    refine .inr ⟨fun listed => ?_, rfl, rfl, rfl⟩
    obtain ⟨k, e, -⟩ := rows_iff.1 listed
    match ops, e, no with
    | _ :: _ :: _ :: _, _, no => exact no _ _ _ _ rfl
    | [], e, _ | [_], e, _ | [_, _], e, _ => simp only [List.length_cons, List.length_nil] at e; omega

/-- A code is listed with its lengths, or is unknown. -/
theorem readCommand_cases (h : Hdr) (c : Nat) (ops : List Byte) :
    (∃ lens, Listed c lens ∧ ReadsAs c lens h ops.length (readCommand h c ops)) ∨
      ((∀ g ∈ codeLengths, c ∉ g.1) ∧ readCommand h c ops = .unknownCommand h c) := by
  unfold readCommand
  split
  case h_1 | h_2 | h_3 | h_7 | h_30 | h_39 | h_48 | h_49 | h_50 =>
    exact .inl ⟨[0], rfl, readsAs_ops0 fun _ => ⟨rfl, rfl, rfl⟩⟩
  case h_9 | h_10 | h_16 | h_19 | h_24 | h_25 | h_52 => exact .inl ⟨[1], rfl, readsAs_ops1 fun _ _ => ⟨rfl, rfl, rfl⟩⟩
  case h_29 | h_31 | h_42 | h_43 => exact .inl ⟨[2], rfl, readsAs_ops2 fun _ _ => ⟨rfl, rfl, rfl⟩⟩
  case h_6 | h_12 | h_15 | h_17 | h_21 | h_26 | h_27 | h_33 | h_35 | h_36 | h_51 | h_53 =>
    exact .inl ⟨[2], rfl, readsAs_ops11 fun _ _ _ => ⟨rfl, rfl, rfl⟩⟩
  case h_11 | h_14 | h_23 | h_40 | h_41 => exact .inl ⟨[3], rfl, readsAs_ops12 fun _ _ _ => ⟨rfl, rfl, rfl⟩⟩
  case h_4 => exact .inl ⟨[4], rfl, readsAs_ops4 fun _ _ => ⟨rfl, rfl, rfl⟩⟩
  case h_5 => exact .inl ⟨[6], rfl, readsAs_ops6 fun _ _ => ⟨rfl, rfl, rfl⟩⟩
  case h_8 => exact .inl ⟨[6], rfl, readsAs_ops222 fun _ _ _ _ => ⟨rfl, rfl, rfl⟩⟩
  case h_13 => exact .inl ⟨[3], rfl, readsAs_ops111 fun _ _ _ _ => ⟨rfl, rfl, rfl⟩⟩
  case h_34 => exact .inl ⟨[4], rfl, readsAs_ops1111 fun _ _ _ _ _ => ⟨rfl, rfl, rfl⟩⟩
  case h_38 => exact .inl ⟨[5], rfl, readsAs_ops1112 fun _ _ _ _ _ => ⟨rfl, rfl, rfl⟩⟩
  case h_44 => exact .inl ⟨[7], rfl, readsAs_ops1222 fun _ _ _ _ _ => ⟨rfl, rfl, rfl⟩⟩
  case h_45 => exact .inl ⟨[5], rfl, readsAs_ops122 fun _ _ _ _ => ⟨rfl, rfl, rfl⟩⟩
  case h_47 => exact .inl ⟨[4], rfl, readsAs_ops22 fun _ _ _ => ⟨rfl, rfl, rfl⟩⟩
  case h_18 => exact .inl ⟨[51, 99, 147, 195], rfl, readsAs_loadKernelRows⟩
  case h_20 => exact .inl ⟨[8, 14], rfl, readsAs_openFeed⟩
  case h_22 => exact .inl ⟨[2, 3], rfl, readsAs_retuneFeed⟩
  case h_28 => exact .inl ⟨[1, 3], rfl, readsAs_readPool⟩
  case h_32 => exact .inl ⟨[11], rfl, readsAs_setWindow⟩
  case h_37 => exact .inl ⟨[12, 18], rfl, readsAs_stageRule⟩
  case h_46 => exact .inl ⟨[8], rfl, readsAs_scan⟩
  case h_54 =>
    refine .inr ⟨fun g hg hc => ?_, rfl⟩
    have listed : c ∈ codeLengths.flatMap (·.1) := List.mem_flatMap.2 ⟨g, hg, hc⟩
    simp only [codeLengths, List.flatMap_cons, List.flatMap_nil, List.cons_append, List.nil_append, List.mem_cons,
      List.not_mem_nil, or_false] at listed
    simp_all

end

/-! ### Commands written and read back -/

section
variable {i : Instr} {h : Hdr}

theorem code_lt (fit : i.operandsFit = true) : i.code < 256 := by
  cases i with
  | unknownCommand _ c => exact of_decide_eq_true (Bool.and_eq_true_iff.1 fit).1
  | _ => exact of_decide_eq_true rfl

theorem lengths_lt {lens : List Nat} {c n : Nat} (hl : Listed c lens) (hn : n ∈ lens) : n < 256 := by
  have all : ∀ g ∈ codeLengths, ∀ m ∈ g.2, m < 256 := by decide
  have mem : lens ∈ (codeLengths.filter fun g => decide (c ∈ g.1)).map (·.2) := by rw [hl]; exact List.mem_singleton_self _
  obtain ⟨g, hg, rfl⟩ := List.mem_map.1 mem
  exact all g (List.mem_filter.1 hg).1 n hn

/-- The operand bytes of a command fit the length byte, since they are read back as that command. -/
theorem operands_length_lt (hh : i.hdr? = some h) (ok : h.lenOk = true) (fit : i.operandsFit = true) : i.operands.length < 256 := by
  have back := readCommand_operands i h hh fit
  rcases readCommand_cases h i.code i.operands with ⟨lens, hl, ⟨hn, -⟩ | ⟨-, -, -, hb⟩⟩ | ⟨-, hu⟩
  · exact lengths_lt hl hn
  · rw [back, hh] at hb
    have bad : h.lenOk = false := congrArg (fun o : Option Hdr => (o.map Hdr.lenOk).getD false) hb
    rw [ok] at bad
    cases bad
  · rw [← back, hu]
    exact Nat.zero_lt_succ _

/-- A command with header `h` as it stands in its frame, not judged. -/
def rawOf (h : Hdr) (i : Instr) : RawCommand :=
  { code := BitVec.ofNat 8 i.code, flags := h.flagByte, tag := h.tag, timed := h.timed, ops := i.operands }

theorem encodeCommand_eq : encodeCommand h i = RawCommand.bytes (rawOf h i) := rfl

theorem flagByte_bits (h : Hdr) :
    h.flagByte.toNat < 4 ∧ h.flagByte.getLsbD 0 = h.acked ∧ h.flagByte.getLsbD 1 = h.timed.isSome := by
  unfold Hdr.flagByte
  cases h.acked <;> cases h.timed.isSome <;> decide

variable (hh : i.hdr? = some h) (ok : h.lenOk = true) (wf : i.wellFormed = true)
include hh ok wf

theorem wellFormed_fits : h.fits = true ∧ i.operandsFit = true := by
  unfold Instr.wellFormed at wf
  rw [hh] at wf
  simpa [ok] using wf

theorem rawOf_fits : RawCommand.Fits (rawOf h i) := by
  obtain ⟨hf, fit⟩ := wellFormed_fits hh ok wf
  obtain ⟨small, -, timed⟩ := flagByte_bits h
  obtain ⟨tag, time⟩ := Bool.and_eq_true_iff.1 hf
  refine ⟨small, timed, fun t ht => ?_, of_decide_eq_true tag, operands_length_lt hh ok fit⟩
  rw [show h.timed = some t from ht] at time
  exact fits6_iff.1 time

theorem rawOf_instr : (rawOf h i).instr h.link = i := by
  obtain ⟨-, fit⟩ := wellFormed_fits hh ok wf
  obtain ⟨-, acked, -⟩ := flagByte_bits h
  have code : (BitVec.ofNat 8 i.code).toNat = i.code := by
    rw [BitVec.toNat_ofNat]; exact Nat.mod_eq_of_lt (code_lt fit)
  show readCommand { link := h.link, acked := h.flagByte.getLsbD 0, timed := h.timed, tag := h.tag, lenOk := true }
    (BitVec.ofNat 8 i.code).toNat i.operands = i
  rw [code, acked, ← ok]
  exact readCommand_operands i h hh fit

end

/-! ### What a command read keeps -/

/-- The header of a command as its bytes give it, before its length is judged. -/
def headerOf (r : RawCommand) (l : Link) : Hdr :=
  { link := l, acked := r.flags.getLsbD 0, timed := r.timed, tag := r.tag, lenOk := true }

theorem instr_cases (r : RawCommand) (l : Link) :
    (isUnknown (r.instr l) = true ↔ ∀ g ∈ codeLengths, r.code.toNat ∉ g.1) ∧ (r.instr l).code = r.code.toNat ∧
      ∃ h, (r.instr l).hdr? = some h ∧ h.link = l ∧ h.acked = r.flags.getLsbD 0 ∧ h.timed = r.timed ∧ h.tag = r.tag ∧
        (h.lenOk = true ↔ ∀ g ∈ codeLengths, r.code.toNat ∈ g.1 → r.ops.length ∈ g.2) := by
  have read : r.instr l = readCommand (headerOf r l) r.code.toNat r.ops := rfl
  rw [read]
  rcases readCommand_cases (headerOf r l) r.code.toNat r.ops with ⟨lens, hl, good | bad⟩ | ⟨unlisted, unknown⟩
  · obtain ⟨hn, hu, hc, hh⟩ := good
    exact ⟨iff_of_false (by simp [hu]) hl.not_unlisted, hc, _, hh, rfl, rfl, rfl, rfl, iff_of_true rfl (hl.length_iff.2 hn)⟩
  · obtain ⟨hn, hu, hc, hh⟩ := bad
    exact ⟨iff_of_false (by simp [hu]) hl.not_unlisted, hc, _, hh, rfl, rfl, rfl, rfl,
      iff_of_false nofun (mt hl.length_iff.1 hn)⟩
  · rw [unknown]
    exact ⟨iff_of_true rfl unlisted, rfl, _, rfl, rfl, rfl, rfl, rfl,
      iff_of_true rfl fun g hg hc => absurd hc (unlisted g hg)⟩

/-! ### Frames the device sends (R148, R151, R153 to R155) -/

/-- A number in `n` bytes, most significant first. -/
def be (n x : Nat) : List Byte := (List.range n).map fun j => BitVec.ofNat 8 (x / 256 ^ (n - 1 - j))

theorem be_one (x : Nat) : be 1 x = [BitVec.ofNat 8 x] := by simp [be]

theorem be_two (x : Nat) : be 2 x = bytes2 x := by simp [be, bytes2, List.range_succ]

theorem be_three (x : Nat) : be 3 x = bytes3 x := by simp [be, bytes3, bytes2, List.range_succ]

theorem be_four (x : Nat) : be 4 x = bytes4 x := by simp [be, bytes4, bytes2, List.range_succ, Nat.div_div_eq_div_mul]

theorem be_six (x : Nat) : be 6 x = bytes6 x := by
  simp [be, bytes6, bytes4, bytes2, List.range_succ, Nat.div_div_eq_div_mul]

theorem length_be (n x : Nat) : (be n x).length = n := by simp [be]

/-- The lists that a number of bytes each makes. -/
theorem length_flatMap_be {α : Type} (n : Nat) (f : α → Nat) (xs : List α) :
    (xs.flatMap fun x => be n (f x)).length = n * xs.length := by
  simp [List.length_flatMap, length_be, Nat.mul_comm]

/-- The bytes of a frame and their number, its check included. -/
theorem frameBytes_of_body {f : EgressFrame} {bytes : List Byte} {n : Nat} (hb : f.body = bytes) (hn : f.body.length + 4 = n) :
    frameBytes f = bytes ++ be 4 (crc32 bytes) ∧ (frameBytes f).length = n := by
  have e : frameBytes f = bytes ++ be 4 (crc32 bytes) := by rw [frameBytes, hb, withCheck, be_four]
  exact ⟨e, by rw [e, List.length_append, length_be, ← hb, hn]⟩

theorem passBody_eq (f : SampleFrame) :
    (EgressFrame.pass f).body =
      be 1 1 ++ be 1 (f.contentClass * 16 + f.rateCode) ++ be 2 f.stream ++ be 2 f.sequence ++ be 1 f.program ++
        be 1 f.language ++ be 1 f.samples.length ++ be 3 0 ++ f.samples.flatMap fun x => be 3 x.toNat := by
  simp only [be_one, be_two, be_three]
  rfl

theorem busBody_eq (f : BusFrame) :
    (EgressFrame.bus f).body =
      be 1 4 ++ be 1 f.link.num ++ be 2 f.sequence ++ be 6 f.t0.toNat ++ be 1 f.k ++ be 1 f.buses.length ++
        f.buses.flatMap (be 1) ++ f.rows.flatten.flatMap fun x => be 3 x.toNat := by
  have buses : f.buses.flatMap (be 1) = f.buses.map (BitVec.ofNat 8) := by
    rw [List.map_eq_flatMap]
    exact List.flatMap_congr fun b _ => be_one b
  have rows : (f.rows.flatten.flatMap fun x => be 3 x.toNat) = f.rows.flatMap fun row => row.flatMap sampleBytes := by
    rw [List.flatten_eq_flatMap, List.flatMap_assoc]
    simp only [be_three]
    rfl
  rw [buses, rows]
  simp only [be_one, be_two, be_six]
  rfl

theorem reportBody_eq (n : Nat) (rs : List Report) :
    (EgressFrame.report n rs).body =
      be 1 5 ++ be 1 rs.length ++ be 2 n ++ rs.flatMap fun r =>
        be 1 ((if r.earlierLost then 128 else 0) + (match r.kind with | .reply => 1 | .event => 2)) ++ be 1 r.code ++
          be 2 r.tag ++ be 1 r.status.code ++ be 1 r.subject.kindNum ++ be 2 r.subject.number ++ be 6 r.time.toNat ++
          be 1 r.words.length ++ be 1 0 ++ r.words.flatMap fun w => be 4 w.toNat := by
  simp only [be_one, be_two, be_four, be_six]
  rfl

theorem flowBody_eq (f : FlowFrame) :
    (EgressFrame.flow f).body = be 1 6 ++ be 1 (if f.pause then 1 else 2) ++ be 2 f.stream ++ be 2 f.fill ++ be 2 f.capacity := by
  simp only [be_one, be_two]
  rw [EgressFrame.body, FlowFrame.body]
  cases f.pause <;> rfl

/-- Settles O43: what a command read keeps, the frames' layouts, and each well-formed command read back from its bytes. -/
theorem commandBytesReadBack : Obligations.CommandBytesReadBack := by
  refine ⟨instr_cases, ⟨fun f => ?pass, fun f hr hrow => ?bus, fun n rs => ?report, fun f => ?flow, fun n => rfl⟩,
    fun i h rest hh ok wf => ⟨rawOf h i, ?_, (rawOf_fits hh ok wf).1, rawOf_instr hh ok wf⟩⟩
  case pass =>
    refine frameBytes_of_body (passBody_eq f) ?_
    rw [passBody_eq]
    simp only [List.length_append, length_be, length_flatMap_be]
    omega
  case bus =>
    have samples : f.rows.flatten.length = f.k * f.buses.length := by
      rw [List.length_flatten, List.map_congr_left hrow, List.map_const', List.sum_replicate, hr]
      rfl
    refine frameBytes_of_body (busBody_eq f) ?_
    rw [busBody_eq]
    have buses : (f.buses.flatMap (be 1)).length = f.buses.length := (length_flatMap_be 1 id f.buses).trans (Nat.one_mul _)
    simp only [List.length_append, length_be, length_flatMap_be, buses, samples, Nat.mul_assoc]
    omega
  case report =>
    refine frameBytes_of_body (reportBody_eq n rs) ?_
    rw [reportBody_eq]
    have words : ∀ r : Report, (r.words.flatMap fun w => be 4 w.toNat).length = 4 * r.words.length :=
      fun r => length_flatMap_be 4 _ _
    simp only [List.length_append, List.length_flatMap, length_be, words]
    induction rs with
    | nil => rfl
    | cons r rs ih =>
      simp only [List.map_cons, List.sum_cons, List.length_cons] at ih ⊢
      omega
  case flow =>
    refine frameBytes_of_body (flowBody_eq f) ?_
    rw [flowBody_eq]
    simp only [List.length_append, length_be]
  rw [encodeCommand_eq]
  exact readRaw_bytes (rawOf_fits hh ok wf) rest

end Sys2Proof.Machine

/-! PROOFS. The links (files 08 and 09), two: arriving frames, their checks, and the control frames that join the FIFO. -/

namespace Sys2Proof.Machine

/-! ### The checks of an arriving frame (R141, R144) -/

section
variable {s : State} {l : Link}

theorem exec_frameArrival {bs : List Byte} {t : State} (he : s.engine ≠ .starting) (e : s.frameArrives l bs = t) :
    exec (.frameArrival l bs) s = .next t.settle := by
  rw [← e]
  exact congrArg Host.Outcome.next (if_neg he)

theorem frameArrives_down {bs : List Byte} (hu : s.linkUp l = false) : s.frameArrives l bs = s := if_pos (by simp [hu])

theorem frameArrives_short {bs : List Byte} (hu : s.linkUp l = true) (hs : bs.length < 8) : s.frameArrives l bs = s.badForm l :=
  (if_neg (by simp [hu])).trans (if_pos hs)

/-- A frame of at least 8 bytes: its last four are its check. -/
theorem frameArrives_long {body check : List Byte} (hu : s.linkUp l = true) (hb : 4 ≤ body.length) (hc : check.length = 4) :
    s.frameArrives l (body ++ check) =
      if bytes4 (crc32 body) = check then s.takeBody l body
      else s.count l fun c => { c with badCheck := inc32 c.badCheck } := by
  have size : (body ++ check).length - 4 = body.length := by rw [List.length_append]; omega
  refine (if_neg (by simp [hu])).trans ((if_neg (by rw [List.length_append]; omega)).trans ?_)
  dsimp only
  rw [size, List.take_left, List.drop_left]

theorem frameArrives_checked {body : List Byte} (hu : s.linkUp l = true) (hb : 4 ≤ body.length) :
    s.frameArrives l (withCheck body) = s.takeBody l body :=
  (frameArrives_long hu hb rfl).trans (if_pos rfl)

end

/-! ### The form checks (R145, R146, R151, R174) -/

section
variable {s : State} {l : Link} (rest : List Byte)

theorem takeBody_sample {fr : SampleFrame} (h : readSampleFrame (1 :: rest) = some fr) :
    s.takeBody l (1 :: rest) = (s.goodFrame l).classify l fr := by
  unfold State.takeBody
  show (match readSampleFrame (1 :: rest) with
    | some fr => (s.goodFrame l).classify l fr
    | none => s.badForm l) = _
  rw [h]

theorem takeBody_sample_bad (h : readSampleFrame (1 :: rest) = none) : s.takeBody l (1 :: rest) = s.badForm l := by
  unfold State.takeBody
  show (match readSampleFrame (1 :: rest) with
    | some fr => (s.goodFrame l).classify l fr
    | none => s.badForm l) = _
  rw [h]

theorem takeBody_control {cs : List Instr} (h : readControlFrame l (2 :: rest) = .ok cs) :
    s.takeBody l (2 :: rest) = (s.goodFrame l).enqueueControl l cs := by
  unfold State.takeBody
  show (match readControlFrame l (2 :: rest) with
    | .ok cs => (s.goodFrame l).enqueueControl l cs
    | .error reason => (s.badForm l).plainEvent .controlDropped (.link l.num) [wordNat reason]) = _
  rw [h]

theorem takeBody_control_bad {reason : Nat} (h : readControlFrame l (2 :: rest) = .error reason) :
    s.takeBody l (2 :: rest) = (s.badForm l).plainEvent .controlDropped (.link l.num) [wordNat reason] := by
  unfold State.takeBody
  show (match readControlFrame l (2 :: rest) with
    | .ok cs => (s.goodFrame l).enqueueControl l cs
    | .error reason => (s.badForm l).plainEvent .controlDropped (.link l.num) [wordNat reason]) = _
  rw [h]

theorem takeBody_credit {c m n : Nat} (h : readCreditFrame (3 :: rest) = some (c, m, n)) :
    s.takeBody l (3 :: rest) = (s.goodFrame l).setArb l (((s.goodFrame l).arb l).credit c m n) := by
  unfold State.takeBody
  show (match readCreditFrame (3 :: rest) with
    | some (c, m, n) => (s.goodFrame l).setArb l (((s.goodFrame l).arb l).credit c m n)
    | none => s.badForm l) = _
  rw [h]

theorem takeBody_credit_bad (h : readCreditFrame (3 :: rest) = none) : s.takeBody l (3 :: rest) = s.badForm l := by
  unfold State.takeBody
  show (match readCreditFrame (3 :: rest) with
    | some (c, m, n) => (s.goodFrame l).setArb l (((s.goodFrame l).arb l).credit c m n)
    | none => s.badForm l) = _
  rw [h]

theorem takeBody_other {k : Byte} (h1 : k ≠ 1) (h2 : k ≠ 2) (h3 : k ≠ 3) : s.takeBody l (k :: rest) = s.badForm l := by
  unfold State.takeBody
  split
  case h_1 e => exact absurd (Option.some.inj e) h1
  case h_2 e => exact absurd (Option.some.inj e) h2
  case h_3 e => exact absurd (Option.some.inj e) h3
  case h_4 => rfl

end

/-! #### Sample frames (R151) -/

theorem readSampleFrame_short {rest : List Byte} (h : rest.length < 11) : readSampleFrame (1 :: rest) = none := by
  unfold readSampleFrame
  split
  case h_1 e =>
    obtain ⟨-, rfl⟩ := List.cons_eq_cons.1 e
    simp only [List.length_cons] at h
    omega
  case h_2 => rfl

/-- Bits 2 and 3 of a byte as a number. -/
theorem middleBits_iff (b : Byte) : b.toNat / 4 % 4 = 0 ↔ ¬ (b.getLsbD 2 = true ∨ b.getLsbD 3 = true) := by
  rw [← BitVec.testBit_toNat, ← BitVec.testBit_toNat, Nat.testBit_eq_decide_div_mod_eq, Nat.testBit_eq_decide_div_mod_eq,
    decide_eq_true_iff, decide_eq_true_iff]
  omega

section
variable {b s1 s0 q1 q0 p g n z1 z2 z3 : Byte} {samples : List Byte}

theorem readSampleFrame_bad
    (bad : b.getLsbD 2 = true ∨ b.getLsbD 3 = true ∨ 16 ≤ s1.toNat ∨ z1 ≠ 0 ∨ z2 ≠ 0 ∨ z3 ≠ 0 ∨ n.toNat = 0 ∨ 64 < n.toNat ∨
      samples.length ≠ 3 * n.toNat) :
    readSampleFrame (1 :: b :: s1 :: s0 :: q1 :: q0 :: p :: g :: n :: z1 :: z2 :: z3 :: samples) = none := by
  refine if_neg ?_
  rintro ⟨-, hb, hs, h1, h2, h3, hn, hn', hl⟩
  obtain ⟨b2, b3⟩ := not_or.1 ((middleBits_iff b).1 hb)
  rcases bad with h | h | h | h | h | h | h | h | h
  · exact b2 h
  · exact b3 h
  · omega
  · exact h h1
  · exact h h2
  · exact h h3
  · omega
  · omega
  · exact h hl

theorem readSampleFrame_good {xs : List Sample} (hb : b.toNat / 4 % 4 = 0) (hs : s1.toNat / 16 = 0) (hn : 1 ≤ n.toNat)
    (hn' : n.toNat ≤ 64) (hl : samples.length = 3 * n.toNat) (hx : readSamples samples = some xs) :
    readSampleFrame (1 :: b :: s1 :: s0 :: q1 :: q0 :: p :: g :: n :: 0 :: 0 :: 0 :: samples) =
      some { contentClass := b.toNat / 16, rateCode := b.toNat % 4, stream := nat2 s1 s0, sequence := nat2 q1 q0,
             program := nat1 p, language := nat1 g, samples := xs } := by
  refine (if_pos ⟨rfl, hb, hs, rfl, rfl, rfl, hn, hn', hl⟩).trans ?_
  rw [hx]
  rfl

end

/-- A sample is read back from its three bytes. -/
theorem sample_bytes (x : Sample) :
    BitVec.ofNat 24 ((BitVec.ofNat 8 (x.toNat / 65536)).toNat * 65536 +
      nat2 (BitVec.ofNat 8 (x.toNat / 256)) (BitVec.ofNat 8 x.toNat)) = x := by
  have small : x.toNat < 16777216 := x.isLt
  apply BitVec.eq_of_toNat_eq
  rw [nat2_mod, BitVec.toNat_ofNat, BitVec.toNat_ofNat]
  omega

theorem readSamples_bytes : ∀ xs : List Sample, readSamples (xs.flatMap sampleBytes) = some xs
  | [] => rfl
  | x :: xs => by
    show (readSamples (xs.flatMap sampleBytes)).map (_ :: ·) = _
    rw [readSamples_bytes xs, sample_bytes]
    rfl

theorem length_sampleBytes (xs : List Sample) : (xs.flatMap sampleBytes).length = 3 * xs.length := by
  rw [← length_flatMap_be 3 (fun x : Sample => x.toNat) xs]
  exact congrArg List.length (List.flatMap_congr fun x _ => (be_three x.toNat).symm)

/-- A sample frame is read back from its body. -/
theorem readSampleFrame_body {fr : SampleFrame} (hc : fr.contentClass < 16) (hr : fr.rateCode < 4) (hst : fr.stream < 4096)
    (hq : fr.sequence < 65536) (hp : fr.program < 256) (hg : fr.language < 256) (hn : 1 ≤ fr.samples.length)
    (hn' : fr.samples.length ≤ 64) : readSampleFrame fr.body = some fr := by
  have head : (BitVec.ofNat 8 (fr.contentClass * 16 + fr.rateCode)).toNat = fr.contentClass * 16 + fr.rateCode := by
    rw [BitVec.toNat_ofNat]; omega
  have count : (BitVec.ofNat 8 fr.samples.length).toNat = fr.samples.length := by
    rw [BitVec.toNat_ofNat]; omega
  have stream : (BitVec.ofNat 8 (fr.stream / 256)).toNat / 16 = 0 := by
    rw [BitVec.toNat_ofNat]; omega
  refine (readSampleFrame_good (by rw [head]; omega) stream (by rw [count]; exact hn) (by rw [count]; exact hn')
    (by rw [count]; exact length_sampleBytes _) (readSamples_bytes _)).trans ?_
  have stream2 : fits2 fr.stream = true := decide_eq_true (by omega)
  rw [head, nat2_bytes stream2, nat2_bytes (decide_eq_true hq), nat1_byte (decide_eq_true hp), nat1_byte (decide_eq_true hg)]
  have class' : (fr.contentClass * 16 + fr.rateCode) / 16 = fr.contentClass := by omega
  have rate : (fr.contentClass * 16 + fr.rateCode) % 4 = fr.rateCode := by omega
  rw [class', rate]

/-! #### Credit frames (R174) -/

theorem readCreditFrame_bad {c m n : Byte} {rest : List Byte} (bad : rest ≠ [] ∨ (c ≠ 1 ∧ c ≠ 2) ∨ (m ≠ 1 ∧ m ≠ 2)) :
    readCreditFrame (3 :: c :: m :: n :: rest) = none := by
  cases rest with
  | cons x rest => rfl
  | nil =>
    refine if_neg ?_
    rintro ⟨hc, hm⟩
    rcases bad with h | ⟨h1, h2⟩ | ⟨h1, h2⟩
    · exact h rfl
    · exact hc.elim h1 h2
    · exact hm.elim h1 h2

theorem readCreditFrame_good {c m : Byte} (n : Byte) (hc : c = 1 ∨ c = 2) (hm : m = 1 ∨ m = 2) :
    readCreditFrame [3, c, m, n] = some (c.toNat, m.toNat, n.toNat) := if_pos ⟨hc, hm⟩

/-- Settles O41: the check of R144's characters by evaluation; then the checks of an arriving frame in their order. -/
theorem arrivingFramesAreChecked : Obligations.ArrivingFramesAreChecked := by
  refine ⟨by decide +kernel, fun l body s he hu hb => ?malformed, fun l s he => ?arrival⟩
  case malformed =>
    have body_bad (e : s.takeBody l body = s.badForm l) :
        exec (.frameArrival l (withCheck body)) s = .next (s.badForm l).settle :=
      exec_frameArrival he ((frameArrives_checked hu hb).trans e)
    refine ⟨?kind, ?short, ?form, ?credit⟩
    case kind =>
      rintro k rest rfl h1 h2 h3
      exact body_bad (takeBody_other rest h1 h2 h3)
    case short =>
      rintro rest rfl hs
      exact body_bad (takeBody_sample_bad rest (readSampleFrame_short hs))
    case form =>
      rintro b s1 s0 q1 q0 p g n z1 z2 z3 samples rfl bad
      exact body_bad (takeBody_sample_bad _ (readSampleFrame_bad bad))
    case credit =>
      rintro c m n rest rfl bad
      exact body_bad (takeBody_credit_bad _ (readCreditFrame_bad bad))
  case arrival =>
    refine ⟨fun bs hu => exec_frameArrival he (frameArrives_down hu), fun bs hu hs => exec_frameArrival he (frameArrives_short hu hs),
      fun body check hu hb hc hne => ?badCheck, fun fr hu hc hr hst hq hp hg hn hn' => ?sample, fun mode n hu hm => ?credit⟩
    case badCheck => exact exec_frameArrival he ((frameArrives_long hu hb hc).trans (if_neg (Ne.symm hne)))
    case sample =>
      have whole : 4 ≤ fr.body.length := by
        show 4 ≤ ([_, _, _, _] ++ _ : List Byte).length
        rw [List.length_append]
        exact Nat.le_add_right ..
      refine exec_frameArrival he ((frameArrives_checked hu whole).trans ?_)
      exact takeBody_sample _ (readSampleFrame_body hc hr hst hq hp hg hn hn')
    case credit =>
      have given {c : Byte} (hc : c = 1 ∨ c = 2) :
          s.frameArrives l (withCheck [3, c, mode, n]) =
            (s.goodFrame l).setArb l (((s.goodFrame l).arb l).credit c.toNat mode.toNat n.toNat) :=
        (frameArrives_checked hu (by simp)).trans (takeBody_credit _ (readCreditFrame_good n hc hm))
      refine ⟨exec_frameArrival he ((given (.inl rfl)).trans ?_), exec_frameArrival he ((given (.inr rfl)).trans ?_)⟩
      · rcases hm with rfl | rfl <;> rfl
      · rcases hm with rfl | rfl <;> rfl

/-! ### Control frames (R146, R152, R156) -/

/-- One command's bytes, by their own length byte and timed flag. -/
def IsCommandBytes (p : List Byte) : Prop :=
  ∃ code flags t1 t0 m rest, p = code :: flags :: t1 :: t0 :: m :: rest ∧
    rest.length = m.toNat + (if flags.getLsbD 1 then 6 else 0)

/-- A command's bytes are read as one command, whatever stands behind them. -/
theorem readRaw_of_isCommandBytes {p : List Byte} (h : IsCommandBytes p) :
    ∃ c : RawCommand, c.flags = p.getD 1 0 ∧ ∀ tail, readRaw (p ++ tail) = some (c, tail) := by
  obtain ⟨code, flags, t1, t0, m, rest, rfl, hl⟩ := h
  by_cases timed : flags.getLsbD 1 = true
  · rw [if_pos timed] at hl
    match rest, hl with
    | a :: b :: c :: d :: e :: f :: ops, hl =>
      have size : ops.length = m.toNat := by simp only [List.length_cons] at hl; omega
      refine ⟨⟨code, flags, nat2 t1 t0, some (nat6 a b c d e f), ops⟩, rfl, fun tail => ?_⟩
      refine (if_pos timed).trans ((if_pos ?_).trans ?_)
      · show m.toNat ≤ (ops ++ tail).length
        rw [List.length_append, size]
        exact Nat.le_add_right ..
      · show some (RawCommand.mk _ _ _ _ ((ops ++ tail).take m.toNat), (ops ++ tail).drop m.toNat) = _
        rw [← size, List.take_left, List.drop_left]
    | [], hl | [_], hl | [_, _], hl | [_, _, _], hl | [_, _, _, _], hl | [_, _, _, _, _], hl =>
      simp only [List.length_cons, List.length_nil] at hl
      omega
  · rw [if_neg timed] at hl
    refine ⟨⟨code, flags, nat2 t1 t0, none, rest⟩, rfl, fun tail => ?_⟩
    refine (if_neg timed).trans ((if_pos ?_).trans ?_)
    · show m.toNat ≤ (rest ++ tail).length
      rw [List.length_append, hl]
      exact Nat.le_add_right ..
    · show some (RawCommand.mk _ _ _ _ ((rest ++ tail).take m.toNat), (rest ++ tail).drop m.toNat) = _
      rw [show m.toNat = rest.length from hl.symm, List.take_left, List.drop_left]

/-- What is read as a command is a command's bytes. -/
theorem isCommandBytes_of_readRaw {bs tail : List Byte} {c : RawCommand} (h : readRaw bs = some (c, tail)) :
    ∃ p, IsCommandBytes p ∧ bs = p ++ tail := by
  unfold readRaw at h
  split at h
  case h_2 => cases h
  case h_1 code flags t1 t0 m rest =>
    split at h
    case isTrue timed =>
      split at h
      case h_2 => cases h
      case h_1 a b c d e f ops =>
        split at h
        case isFalse => cases h
        case isTrue hm =>
          cases h
          refine ⟨code :: flags :: t1 :: t0 :: m :: a :: b :: c :: d :: e :: f :: ops.take m.toNat,
            ⟨code, flags, t1, t0, m, _, rfl, ?_⟩, ?_⟩
          · rw [if_pos timed]
            simp only [List.length_cons, List.length_take]
            omega
          · simp
    case isFalse timed =>
      split at h
      case isFalse => cases h
      case isTrue hm =>
        cases h
        refine ⟨code :: flags :: t1 :: t0 :: m :: rest.take m.toNat, ⟨code, flags, t1, t0, m, _, rfl, ?_⟩, ?_⟩
        · rw [if_neg timed, List.length_take]
          omega
        · simp

/-- An area that commands fill exactly is read as those commands. -/
theorem readArea_of_parts :
    ∀ {parts : List (List Byte)}, (∀ p ∈ parts, IsCommandBytes p) →
      ∃ cs : List RawCommand, readArea parts.length parts.flatten = some cs ∧ cs.map (·.flags) = parts.map (·.getD 1 0)
  | [], _ => ⟨[], rfl, rfl⟩
  | p :: parts, h => by
    obtain ⟨c, flags, read⟩ := readRaw_of_isCommandBytes (h p List.mem_cons_self)
    obtain ⟨cs, area, all⟩ := readArea_of_parts fun q hq => h q (List.mem_cons_of_mem _ hq)
    refine ⟨c :: cs, ?_, by rw [List.map_cons, List.map_cons, flags, all]⟩
    show (match readRaw (p ++ parts.flatten) with
      | some (c, rest) => (readArea parts.length rest).map (c :: ·)
      | none => none) = _
    rw [read]
    show (readArea parts.length parts.flatten).map (c :: ·) = _
    rw [area]
    rfl

/-- An area that is read is filled exactly by commands. -/
theorem parts_of_readArea :
    ∀ {n : Nat} {area : List Byte} {cs : List RawCommand}, readArea n area = some cs →
      ∃ parts : List (List Byte), parts.length = n ∧ parts.flatten = area ∧ ∀ p ∈ parts, IsCommandBytes p
  | 0, [], _, _ => ⟨[], rfl, rfl, nofun⟩
  | 0, _ :: _, _, h => nomatch h
  | n + 1, area, cs, h => by
    unfold readArea at h
    split at h
    case h_2 => cases h
    case h_1 c rest read =>
      obtain ⟨ds, hd, -⟩ := Option.map_eq_some_iff.1 h
      obtain ⟨p, hp, rfl⟩ := isCommandBytes_of_readRaw read
      obtain ⟨parts, rfl, rfl, all⟩ := parts_of_readArea hd
      exact ⟨p :: parts, rfl, rfl, List.forall_mem_cons.2 ⟨hp, all⟩⟩

/-- Commands are read back from the area of their bytes. -/
theorem readArea_bytes :
    ∀ {rs : List RawCommand}, (∀ r ∈ rs, RawCommand.Fits r) → readArea rs.length (rs.flatMap RawCommand.bytes) = some rs
  | [], _ => rfl
  | r :: rs, h => by
    show (match readRaw (RawCommand.bytes r ++ rs.flatMap RawCommand.bytes) with
      | some (c, rest) => (readArea rs.length rest).map (c :: ·)
      | none => none) = _
    rw [readRaw_bytes (h r List.mem_cons_self)]
    show (readArea rs.length (rs.flatMap RawCommand.bytes)).map (r :: ·) = _
    rw [readArea_bytes fun q hq => h q (List.mem_cons_of_mem _ hq)]
    rfl

section
variable {l : Link} {count a1 a0 : Byte} {area : List Byte}

/-- The command count and the frame's length are good. -/
def controlSized (count a1 a0 : Byte) (area : List Byte) : Prop :=
  (1 ≤ count.toNat ∧ count.toNat ≤ 16) ∧ area.length + 8 ≤ 2048 ∧ area.length = a1.toNat * 256 + a0.toNat

theorem readControlFrame_sized (h : controlSized count a1 a0 area) :
    readControlFrame l (2 :: count :: a1 :: a0 :: area) =
      match readArea count.toNat area with
      | none => .error 3
      | some cs => if cs.any fun c => decide (4 ≤ c.flags.toNat) then .error 4 else .ok (cs.map (·.instr l)) := by
  obtain ⟨hc, hl, he⟩ := h
  refine (if_neg (by omega)).trans (if_neg ?_)
  rintro (big | differ)
  · omega
  · exact differ he

theorem readControlFrame_count (h : ¬ (1 ≤ count.toNat ∧ count.toNat ≤ 16)) :
    readControlFrame l (2 :: count :: a1 :: a0 :: area) = .error 1 := if_pos (by omega)

theorem readControlFrame_length (hc : 1 ≤ count.toNat ∧ count.toNat ≤ 16)
    (h : ¬ (area.length + 8 ≤ 2048 ∧ area.length = a1.toNat * 256 + a0.toNat)) :
    readControlFrame l (2 :: count :: a1 :: a0 :: area) = .error 2 := by
  refine (if_neg (by omega)).trans (if_pos ?_)
  by_contra fits
  obtain ⟨short, same⟩ := not_or.1 fits
  exact h ⟨by omega, not_not.1 same⟩

theorem readControlFrame_area (hs : controlSized count a1 a0 area) (h : readArea count.toNat area = none) :
    readControlFrame l (2 :: count :: a1 :: a0 :: area) = .error 3 := by
  rw [readControlFrame_sized hs, h]

theorem readControlFrame_flags (hs : controlSized count a1 a0 area) {cs : List RawCommand} (h : readArea count.toNat area = some cs)
    {c : RawCommand} (hc : c ∈ cs) (hf : 4 ≤ c.flags.toNat) :
    readControlFrame l (2 :: count :: a1 :: a0 :: area) = .error 4 := by
  rw [readControlFrame_sized hs, h]
  exact if_pos (List.any_eq_true.2 ⟨c, hc, decide_eq_true hf⟩)

theorem readControlFrame_good (hs : controlSized count a1 a0 area) {cs : List RawCommand} (h : readArea count.toNat area = some cs)
    (hf : ∀ c ∈ cs, c.flags.toNat < 4) :
    readControlFrame l (2 :: count :: a1 :: a0 :: area) = .ok (cs.map (·.instr l)) := by
  rw [readControlFrame_sized hs, h]
  refine if_neg fun any => ?_
  obtain ⟨c, hc, big⟩ := List.any_eq_true.1 any
  exact absurd (of_decide_eq_true big) (Nat.not_le.2 (hf c hc))

end

section
variable {s : State} {l : Link}

/-- A control frame of commands that fit is counted good and handed on. -/
theorem frameArrives_control {rs : List RawCommand} (hu : s.linkUp l = true) (h1 : 1 ≤ rs.length) (h16 : rs.length ≤ 16)
    (fit : ∀ r ∈ rs, RawCommand.Fits r) (hl : (rs.flatMap RawCommand.bytes).length ≤ 2040) :
    s.frameArrives l
        (withCheck ([2, BitVec.ofNat 8 rs.length] ++ bytes2 (rs.flatMap RawCommand.bytes).length ++ rs.flatMap RawCommand.bytes)) =
      (s.goodFrame l).enqueueControl l (rs.map (·.instr l)) := by
  have count : (BitVec.ofNat 8 rs.length).toNat = rs.length := by rw [BitVec.toNat_ofNat]; omega
  have sized : controlSized (BitVec.ofNat 8 rs.length) (BitVec.ofNat 8 ((rs.flatMap RawCommand.bytes).length / 256))
      (BitVec.ofNat 8 (rs.flatMap RawCommand.bytes).length) (rs.flatMap RawCommand.bytes) :=
    ⟨by rw [count]; exact ⟨h1, h16⟩, by omega, (nat2_bytes (decide_eq_true (by omega))).symm⟩
  refine (frameArrives_checked hu (by simp [bytes2])).trans (takeBody_control _ ?_)
  exact readControlFrame_good sized (by rw [count]; exact readArea_bytes fit) fun c hc => (fit c hc).1

theorem enqueueControl_joins (cs : List Instr) (hr : s.roles.get l ≠ .none) (hq : (s.fifos.get l).length < 4) :
    s.enqueueControl l cs = { s with fifos := s.fifos.set l (s.fifos.get l ++ [cs]) } :=
  (if_neg hr).trans (if_neg (Nat.not_le.2 hq))

theorem enqueueControl_full (cs : List Instr) (hr : s.roles.get l ≠ .none) (hq : 4 ≤ (s.fifos.get l).length) :
    s.enqueueControl l cs =
      (s.count l fun c => { c with controlDropped := inc32 c.controlDropped }).plainEvent .controlDropped (.link l.num) [wordNat 5] :=
  (if_neg hr).trans (if_pos hq)

theorem enqueueControl_none (cs : List Instr) (hr : s.roles.get l = .none) :
    s.enqueueControl l cs = s.count l fun c => { c with controlDropped := inc32 c.controlDropped } := if_pos hr

/-- Well-formed commands of one link are the commands of an area of bytes. -/
theorem raws_of_commands :
    ∀ {cs : List Instr}, (∀ i ∈ cs, ∃ h, i.hdr? = some h ∧ h.link = l ∧ h.lenOk = true ∧ i.wellFormed = true) →
      ∃ rs : List RawCommand, (∀ r ∈ rs, RawCommand.Fits r) ∧ rs.length = cs.length ∧ rs.map (·.instr l) = cs ∧
        rs.flatMap RawCommand.bytes = cs.flatMap fun i => match i.hdr? with | some h => encodeCommand h i | none => []
  | [], _ => ⟨[], nofun, rfl, rfl, rfl⟩
  | i :: cs, all => by
    obtain ⟨h, hh, hl, ok, wf⟩ := all i List.mem_cons_self
    have first : (rawOf h i).instr l = i := hl ▸ rawOf_instr hh ok wf
    obtain ⟨rs, fit, size, same, area⟩ := raws_of_commands fun j hj => all j (List.mem_cons_of_mem _ hj)
    refine ⟨rawOf h i :: rs, List.forall_mem_cons.2 ⟨rawOf_fits hh ok wf, fit⟩, by rw [List.length_cons, size, List.length_cons],
      by rw [List.map_cons, first, same], ?_⟩
    rw [List.flatMap_cons, List.flatMap_cons, hh, area]
    exact congrArg (· ++ _) encodeCommand_eq.symm

end

/-- Settles O42: the four reasons for a malformed frame; then the commands of a well-formed one, read back and handed on. -/
theorem controlFramesJoinTheFifo : Obligations.ControlFramesJoinTheFifo := by
  refine ⟨fun l count a1 a0 area s he hu => ?malformed, fun l rs s he hu h1 h16 fit hl hr hq => ?raw,
    fun l cs s he hu h1 h16 all => ?commands⟩
  case malformed =>
    intro drops counted sized isCommand fills
    have dropped {reason : Nat} {w : Word} (hw : wordNat reason = w)
        (e : readControlFrame l (2 :: count :: a1 :: a0 :: area) = .error reason) : drops w := by
      subst hw
      exact exec_frameArrival he ((frameArrives_checked hu (by simp)).trans (takeBody_control_bad _ e))
    refine ⟨fun hc => dropped rfl (readControlFrame_count hc), fun hc hs => dropped rfl (readControlFrame_length hc hs),
      fun hc hs none => dropped rfl (readControlFrame_area ⟨hc, hs⟩ ?unfilled), fun parts p hc hs filled hp hf => dropped rfl ?flags⟩
    case unfilled =>
      refine Option.eq_none_iff_forall_ne_some.2 fun cs read => ?_
      obtain ⟨parts, filled⟩ := parts_of_readArea read
      exact none parts filled
    case flags =>
      obtain ⟨size, flat, commands⟩ := filled
      obtain ⟨cs, read, same⟩ := readArea_of_parts commands
      rw [size, flat] at read
      have listed : p.getD 1 0 ∈ cs.map (·.flags) := by rw [same]; exact List.mem_map_of_mem hp
      obtain ⟨c, hc', e⟩ := List.mem_map.1 listed
      exact readControlFrame_flags ⟨hc, hs⟩ read hc' (by rw [e]; exact hf)
  case raw =>
    exact exec_frameArrival he ((frameArrives_control hu h1 h16 fit hl).trans (enqueueControl_joins (s := s.goodFrame l) _ hr hq))
  case commands =>
    intro area hl bytes u dropped
    obtain ⟨rs, fit, size, same, bytesOf⟩ := raws_of_commands all
    have arrived : s.frameArrives l bytes = (s.goodFrame l).enqueueControl l cs := by
      have arrival := frameArrives_control (s := s) hu (by rw [size]; exact h1) (by rw [size]; exact h16) fit (by rw [bytesOf]; exact hl)
      rw [same, size, bytesOf] at arrival
      exact arrival
    refine ⟨fun hr hq => exec_frameArrival he (arrived.trans (enqueueControl_joins (s := s.goodFrame l) cs hr hq)),
      fun hr hq => exec_frameArrival he (arrived.trans (enqueueControl_full (s := s.goodFrame l) cs hr hq)),
      fun hr => exec_frameArrival he (arrived.trans (enqueueControl_none (s := s.goodFrame l) cs hr))⟩

end Sys2Proof.Machine

/-! PROOFS. The sample instant (file 01): its stages in order, and the rows that are one part of it. -/

namespace Sys2Proof.Machine

/-! ### How far an instant has come -/

section
variable {s : State}

theorem inInstant_present (h : s.instant ≠ none) : s.inInstant = s := if_pos (Option.isSome_iff_ne_none.2 h)

/-- The places of an instant in progress are those that its work names. -/
theorem at_work_of {q : Nat × Nat × Nat × Nat × Nat} (h : s.At q) :
    s.At (s.work.nextBus, s.work.nextFeed, s.work.nextRoute, s.work.nextMix, s.work.nextLink) := by
  show s.At s.work.places
  rwa [(instant_of_at h).2]

/-- A row that is one part of the instant, where its place is the next and its event comes about. -/
theorem instantPart_occurs {upTo : Nat → State → State} {place : InstantWork → Nat} {occurs : State → Bool} {n : Nat}
    (run : s.engine = .run) (next : place (upTo n s.inInstant).work = n) (occ : occurs (upTo n s.inInstant) = true) :
    s.instantPart upTo place occurs n = (upTo (n + 1) (upTo n s.inInstant)).settle :=
  (if_pos run).trans (if_pos (by simp [next, occ]))

end

/-! ### The settling point of a bus (R19) -/

section
variable {s : State} {b : Nat}

theorem settlesNow_of (h : ∀ l, (s.bus b).link = some l → s.houseTime.toNat % s.framing.get l = 0) :
    s.settlesNow (s.bus b).link = true := by
  cases e : (s.bus b).link with
  | none => rfl
  | some l => exact decide_eq_true (h l e)

theorem settleBus_enabling (now : s.settlesNow (s.bus b).link = true) (h : (s.bus b).state = .enabling) :
    s.settleBus b = (s.clearLine b).setBus b { s.bus b with state := .enabled, index := 0 } := by
  unfold State.settleBus
  dsimp only
  rw [if_pos now, h]

theorem settleBus_disabling (now : s.settlesNow (s.bus b).link = true) (h : (s.bus b).state = .disabling) :
    s.settleBus b = s.setBus b { s.bus b with state := .disabled } := by
  unfold State.settleBus
  dsimp only
  rw [if_pos now, h]

/-- The row BUS_SETTLE where its bus settles. -/
theorem exec_busSettle {t : State} (hb : b < 64) (run : s.engine = .run) (next : (s.inInstant.settleTo b).work.nextBus = b)
    (now : (s.inInstant.settleTo b).settlesNow ((s.inInstant.settleTo b).bus b).link = true)
    (state : ((s.inInstant.settleTo b).bus b).state = .enabling ∨ ((s.inInstant.settleTo b).bus b).state = .disabling)
    (step : (s.inInstant.settleTo b).settleBus b = t) :
    exec (.busSettle b) s = .next { t with instant := some { t.work with nextBus := b + 1 } }.settle := by
  have occurs : (decide (b < Config.buses) && (s.inInstant.settleTo b).busSettles b) = true := by
    simpa [State.busSettles, Config.buses, hb, now] using state
  have part : exec (.busSettle b) s = .next ((s.inInstant.settleTo b).settleTo (b + 1)).settle :=
    congrArg Host.Outcome.next
      (instantPart_occurs (occurs := fun t => decide (b < Config.buses) && t.busSettles b) run next occurs)
  have here := at_work_of (at_settleTo b (at_work (inInstant_isSome s)))
  rw [next] at here
  rw [part, settleTo_next here, step]

/-- Settles O45: the work of BUS_SETTLE's own place, after all the work before it. -/
theorem busesSettle : Obligations.BusesSettle := by
  intro b s hb run u through next due
  have now : u.settlesNow (u.bus b).link = true := settlesNow_of due
  refine ⟨fun st => ⟨(u.clearLine b).setBus b { u.bus b with state := .enabled, index := 0 },
    exec_busSettle hb run next now (.inl st) (settleBus_enabling now st), rfl, bus_setBus_same .., fun c hc => ?others,
    fun a => ?words⟩, fun st => exec_busSettle hb run next now (.inr st) (settleBus_disabling now st)⟩
  case others => simp [bus_setBus, bus_clearLine, hc.symm]
  case words =>
    refine (word_clearWords u (u.bus b).pages (u.bus b).delay a).trans ?_
    by_cases h : inLine (u.bus b).pages (u.bus b).delay a = true
    · rw [if_pos h, if_pos ((inLine_iff ..).1 h)]
    · rw [if_neg h, if_neg (mt (inLine_iff ..).2 h)]

end

/-! ### The events of a feed's step -/

section
variable {s : State} {f : Nat}

/-- A row that is feed `f`'s step, where its event comes about. -/
theorem feedRow_occurs {occurs : State → Nat → Bool} (hf : f < 128) (run : s.engine = .run)
    (next : (s.inInstant.feedsTo f).work.nextFeed = f) (occ : occurs (s.inInstant.feedsTo f) f = true) :
    s.instantPart State.feedsTo InstantWork.nextFeed (fun t => decide (f < Config.feeds) && occurs t f) f =
      { (s.inInstant.feedsTo f).feedStep f with
        instant := some { ((s.inInstant.feedsTo f).feedStep f).work with nextFeed := f + 1 } }.settle := by
  have before := at_feedsTo f (at_work (inInstant_isSome s))
  have buses := congrArg Prod.fst (instant_of_at before).2
  have settled : 64 ≤ (s.inInstant.feedsTo f).work.nextBus := by
    have : (s.inInstant.feedsTo f).work.nextBus = max s.inInstant.work.nextBus 64 := buses
    omega
  have here := at_work_of before
  rw [next] at here
  rw [instantPart_occurs (occurs := fun t => decide (f < Config.feeds) && occurs t f) run next
    (by simpa [Config.feeds, hf] using occ), feedsTo_next here settled]

/-- Settles O46: each row carries out its feed's one step, `feedRow_occurs`. -/
theorem feedEventsRunTheStep : Obligations.FeedEventsRunTheStep := by
  intro f s hf run u v done next
  refine ⟨fun idle runs => ?feedStart, fun runs due => ?servoRun, fun st short => ?drainEnd⟩
  case feedStart =>
    exact congrArg Host.Outcome.next (feedRow_occurs (occurs := State.feedStarts) hf run next (by
      unfold State.feedStarts; rw [decide_eq_true idle, decide_eq_true runs]; rfl))
  case servoRun =>
    exact congrArg Host.Outcome.next (feedRow_occurs (occurs := State.servoRuns) hf run next (by
      unfold State.servoRuns; rw [decide_eq_true due, decide_eq_true runs]; rfl))
  case drainEnd =>
    exact congrArg Host.Outcome.next (feedRow_occurs (occurs := State.drainEnds) hf run next (by
      unfold State.drainEnds; rw [decide_eq_true st, decide_eq_true short]; rfl))

end

/-! ### The fourth stage of a route (R16) -/

section
variable {s : State} {i : Nat} {w : InstantWork}

theorem routeStep_none (h : s.routeAt i = none) : s.routeStep i = s := by
  unfold State.routeStep
  rw [h]

theorem advance_idle {r : Route} (h : r.remaining = 0) : r.advance = r := if_pos h

theorem advance_last {r : Route} (h : r.remaining = 1) :
    r.advance = { r with current := r.target * 65536, remaining := 0, step := 0 } :=
  (if_neg (by simp [h])).trans (if_pos h)

theorem advance_on {r : Route} {c : Nat} (h : 2 ≤ r.remaining) (hc : (c : Int) = r.current + r.step) :
    r.advance = { r with current := c, remaining := r.remaining - 1 } := by
  refine (if_neg (by omega)).trans ((if_neg (by omega)).trans ?_)
  rw [← hc]
  rfl

/-- The route's work, with `q` for the route after its ramp's advance. -/
theorem routeStep_some {r q : Route} (hw : s.instant = some w) (h : s.routeAt i = some r) (hq : r.advance = q) :
    s.routeStep i =
      { s with
        instant := some
          { w with
            sums := cellSet 0 w.sums r.bus
              (cellGet 0 w.sums r.bus + r.product (cellGet 0 w.outputs r.feed).toInt) } }.setEntry .route i (.route q) := by
  unfold State.routeStep
  rw [h, hw, ← hq]

/-- The place after route `i`'s work, which changes nothing else of what the row RAMP_END says. -/
theorem routeStep_place {r q : Route} {p : Int} (n : Nat) (hw : s.instant = some w) (h : s.routeAt i = some r) (hq : r.advance = q)
    (hp : r.product (cellGet 0 w.outputs r.feed).toInt = p) :
    { s.routeStep i with instant := some { (s.routeStep i).work with nextRoute := n } } =
      { s with
        instant := some { w with sums := cellSet 0 w.sums r.bus (cellGet 0 w.sums r.bus + p), nextRoute := n } }.setEntry
        .route i (.route q) := by
  rw [routeStep_some hw h hq, hp]
  rfl

/-- The row RAMP_END where the ramp of its route ends. -/
theorem exec_rampEnd {r : Route} (run : s.engine = .run) (next : (s.inInstant.routesTo i).work.nextRoute = i)
    (hi : i < (s.inInstant.routesTo i).tableSize .route) (h : (s.inInstant.routesTo i).routeAt i = some r)
    (last : r.remaining = 1) :
    exec (.rampEnd i) s =
      .next { (s.inInstant.routesTo i).routeStep i with
        instant := some { ((s.inInstant.routesTo i).routeStep i).work with nextRoute := i + 1 } }.settle := by
  have before := at_routesTo i (at_work (inInstant_isSome s))
  have places := (instant_of_at before).2
  simp only [InstantWork.places, Prod.mk.injEq] at places
  obtain ⟨buses, feeds, -⟩ := places
  have here := at_work_of before
  rw [next] at here
  have ends : (s.inInstant.routesTo i).rampEnds i = true := by
    unfold State.rampEnds
    rw [h]
    exact decide_eq_true last
  refine (congrArg Host.Outcome.next (instantPart_occurs
    (occurs := fun t => decide (i < t.tableSize .route) && t.rampEnds i) run next (by
      rw [decide_eq_true hi, ends]; rfl))).trans ?_
  rw [routesTo_next here (by omega) (by omega)]

/-- Settles O49: the product and the ramp's three cases, and the row at the place of its route. -/
theorem rampsEndAtTheTarget : Obligations.RampsEndAtTheTarget := by
  refine ⟨fun i w s hw => ⟨routeStep_none, ?step⟩, fun i r s run => ?row⟩
  case step =>
    intro r h gain y p advanced
    exact ⟨fun h0 => routeStep_some hw h (advance_idle h0), fun h1 => routeStep_some hw h (advance_last h1),
      fun c h2 hc => routeStep_some hw h (advance_on h2 hc)⟩
  case row =>
    intro u next hi h last gain y p
    have hw : u.instant = some u.work := (instant_of_at (at_routesTo i (at_work (inInstant_isSome s)))).1
    exact (exec_rampEnd run next hi h last).trans
      (congrArg (fun t : State => Host.Outcome.next t.settle) (routeStep_place (i + 1) hw h (advance_last last) rfl))

end

/-! ### A whole instant (R8, R12) -/

section
variable {s : State} {b f r m l : Nat}

theorem feedsTo_settled (n : Nat) (h : s.At (b, f, r, m, l)) : (s.settleTo 64).feedsTo n = s.feedsTo n := by
  unfold State.feedsTo
  rw [settleTo_done (at_settleTo 64 h) (by simp [Config.buses])]

theorem routesTo_fed (n : Nat) (h : s.At (b, f, r, m, l)) : (s.feedsTo 128).routesTo n = s.routesTo n := by
  unfold State.routesTo
  rw [feedsTo_done (at_feedsTo 128 h) (by simp) (by simp [Config.feeds])]

theorem mixTo_routed (n : Nat) (h : s.At (b, f, r, m, l)) : (s.routesTo (s.tableSize .route)).mixTo n = s.mixTo n := by
  unfold State.mixTo
  rw [routesTo_done (at_routesTo (s.tableSize .route) h) (by simp) (by simp)
    (by simp [tableSize_of_settings (settings_routesTo _ s)])]

theorem handTo_mixed (n : Nat) (h : s.At (b, f, r, m, l)) : (s.mixTo 64).handTo n = s.handTo n := by
  unfold State.handTo
  rw [mixTo_done (at_mixTo 64 h) (by simp) (by simp) (by simp [tableSize_of_settings (settings_mixTo _ s)])
    (by simp [Config.buses])]

/-- The stages one after the other are the whole work of the instant. -/
theorem handTo_eq_stages (n : Nat) (h : s.At (b, f, r, m, l)) :
    ((((s.settleTo 64).feedsTo 128).routesTo (s.tableSize .route)).mixTo 64).handTo n = s.handTo n := by
  rw [feedsTo_settled 128 h, routesTo_fed _ h, mixTo_routed 64 h, handTo_mixed n h]

theorem kept_begin (hi : s.instant = none) :
    s.inInstant.kept =
      (s.houseTime, s.windows, s.defaults, s.reportSequence,
        s.cues.filter fun (c : Cue) => !decide (c.time ≤ s.houseTime)) := by
  rw [inInstant_between hi]
  exact kept_foldl _ kept_applyCue (s.cues.filter fun (c : Cue) => decide (c.time ≤ s.houseTime))
    { s with cues := s.cues.filter fun (c : Cue) => !decide (c.time ≤ s.houseTime) }

theorem kept_inInstant :
    s.inInstant.kept =
      (s.houseTime, s.windows, s.defaults, s.reportSequence,
        if s.instant = none then s.cues.filter fun (c : Cue) => !decide (c.time ≤ s.houseTime) else s.cues) := by
  by_cases hi : s.instant = none
  · rw [kept_begin hi, if_pos hi]
  · rw [inInstant_present hi, if_neg hi]
    rfl

theorem houseTime_of_kept {t : State} {x : Time × List (Nat × Window) × PerLink DefaultRule × Nat × List Cue} (h : t.kept = x) :
    t.houseTime = x.1 := h ▸ rfl

theorem cues_of_kept {t : State} {x : Time × List (Nat × Window) × PerLink DefaultRule × Nat × List Cue} (h : t.kept = x) :
    t.cues = x.2.2.2.2 := h ▸ rfl

/-- What the work of an instant may change, by what it leaves. -/
theorem eq_of_settings_kept {t : State} {cues : List Cue} (hs : t.settings = s.settings)
    (hk : t.kept = (s.houseTime, s.windows, s.defaults, s.reportSequence, cues)) :
    t = { s with
      instant := t.instant, cues := t.cues, buses := t.buses, kernels := t.kernels, feeds := t.feeds, owners := t.owners,
      freeList := t.freeList, memory := t.memory, slots := t.slots, links := t.links, arbiters := t.arbiters,
      reports := t.reports, lostMarker := t.lostMarker } := by
  cases s
  cases t
  simp only [State.settings, State.kept, Settings.mk.injEq, Prod.mk.injEq] at hs hk
  simp [hs, hk]

theorem sampleInstant_run (run : s.engine = .run) :
    s.sampleInstant = { s.inInstant.handTo 2 with instant := none, houseTime := s.houseTime + 1 } := by
  have time : (s.inInstant.handTo 2).houseTime = s.houseTime := 
    houseTime_of_kept ((kept_handTo 2 _).trans kept_inInstant)
  refine (if_pos run).trans ((if_pos (inInstant_isSome s)).trans ?_)
  rw [← time]

/-- Settles O44: the stages composed, and what they leave, `settings` and `kept`. -/
theorem sampleInstantAdvancesTime : Obligations.SampleInstantAdvancesTime := by
  intro s
  refine ⟨fun run => ?run, fun stopped => congrArg (fun t : State => Host.Outcome.next t.settle) (if_neg stopped)⟩
  intro due begun
  have begins : s.inInstant = begun := by
    by_cases hi : due
    · exact (inInstant_between hi).trans (if_pos hi).symm
    · exact (inInstant_present hi).trans (if_neg hi).symm
  rw [← begins]
  have keeps := (kept_handTo 2 s.inInstant).trans kept_inInstant
  have size : s.inInstant.tableSize .route = s.tableSize .route := tableSize_of_settings (settings_inInstant s) _
  refine ⟨s.inInstant.handTo 2, congrArg (fun t : State => Host.Outcome.next t.settle) (sampleInstant_run run), ?stages,
    cues_of_kept keeps, eq_of_settings_kept (by simp) keeps⟩
  rw [← size, handTo_eq_stages 2 (at_work (inInstant_isSome s))]

end

end Sys2Proof.Machine

/-! PROOFS. A feed's one step of the third stage (files 02 and 03): its start, its servo, its conversion and what a short buffer does. -/

namespace Sys2Proof.Machine

section
variable {s : State} {n : Nat}

/-! ### Events leave a feed's state and fill -/

theorem state_of_gist {f g : Feed} (h : f.gist = g.gist) : f.state = g.state := congrArg Prod.fst h

theorem fill_of_gist {f g : Feed} (h : f.gist = g.gist) : f.fill = g.fill := congrArg (·.2.2.2.2.1) h

theorem state_stickyEvent (k : Sticky) (e : EventKind) (ws : List Word) :
    ((s.stickyEvent n k e ws).feed n).state = (s.feed n).state := state_of_gist (gist_stickyEvent ..)

theorem fill_stickyEvent (k : Sticky) (e : EventKind) (ws : List Word) :
    ((s.stickyEvent n k e ws).feed n).fill = (s.feed n).fill := fill_of_gist (gist_stickyEvent ..)

theorem stateEvent_of_fill {k : Sticky} {st : FeedState} {m : Nat} (h : (s.feed n).fill = m) :
    s.stateEvent n k st = s.stickyEvent n k .state [wordNat st.num, wordNat m] := by
  rw [← h]
  rfl

/-! ### The start evaluation (R51, R52) -/

section
variable {x : Feed} {t : Time}

theorem startEval_priming_below (hx : s.feed n = x) (st : x.state = .priming) (below : x.fill < x.target) : s.startEval n = s := by
  unfold State.startEval
  dsimp only
  rw [hx, st]
  exact if_neg (Nat.not_le.2 below)

theorem startEval_starved_below (hx : s.feed n = x) (st : x.state = .starved) (below : x.fill < x.target) : s.startEval n = s := by
  unfold State.startEval
  dsimp only
  rw [hx, st]
  exact if_neg (Nat.not_le.2 below)

theorem startEval_starved (hx : s.feed n = x) (st : x.state = .starved) (full : x.target ≤ x.fill) :
    s.startEval n = (s.setFeed n { x with state := .running }).stateEvent n .stateRunning .running := by
  unfold State.startEval
  dsimp only
  rw [hx, st]
  exact if_pos full

theorem startEval_untimed (hx : s.feed n = x) (st : x.state = .priming) (time : x.start = none) (full : x.target ≤ x.fill) :
    s.startEval n = (s.setFeed n { x with state := .running }).stateEvent n .stateRunning .running := by
  unfold State.startEval
  dsimp only
  rw [hx, st, time]
  exact if_pos full

theorem startEval_early (hx : s.feed n = x) (st : x.state = .priming) (time : x.start = some t) (full : x.target ≤ x.fill)
    (early : s.houseTime < t) : s.startEval n = s := by
  unfold State.startEval
  dsimp only
  rw [hx, st, time]
  exact (if_pos full).trans (if_neg (BitVec.not_le.2 early))

theorem startEval_timed (hx : s.feed n = x) (st : x.state = .priming) (time : x.start = some t) (full : x.target ≤ x.fill)
    (come : t ≤ s.houseTime) :
    s.startEval n =
      (if t < s.houseTime then
          (s.setFeed n { x with state := .running, start := none }).plainEvent .startLate (.feed n) (words48 (s.houseTime - t))
        else s.setFeed n { x with state := .running, start := none }).stateEvent n .stateRunning .running := by
  unfold State.startEval
  dsimp only
  rw [hx, st, time]
  exact (if_pos full).trans (if_pos come)

theorem startEval_open (h : (s.feed n).state = .closed ∨ (s.feed n).state = .running ∨ (s.feed n).state = .draining) :
    s.startEval n = s := by
  unfold State.startEval
  dsimp only
  rcases h with h | h | h <;> rw [h]

end

/-! ### The step (R36, R37, R43, R50) -/

theorem feedStep_idle {u : State} (start : s.startEval n = u)
    (h : (u.feed n).state = .closed ∨ (u.feed n).state = .priming ∨ (u.feed n).state = .starved) : s.feedStep n = u := by
  have skips : u.servoIfDue n = u := if_neg fun ⟨run, _⟩ => by simp [run] at h
  unfold State.feedStep
  dsimp only
  rw [start, skips]
  rcases h with h | h | h <;> rw [h]

theorem feedStep_draining (h : (s.feed n).state = .draining) : s.feedStep n = s.convertFeed n := by
  have skips : s.servoIfDue n = s := if_neg fun ⟨run, _⟩ => by simp [run] at h
  unfold State.feedStep
  dsimp only
  rw [startEval_open (.inr (.inr h)), skips, h]

/-- The step of a feed that is RUNNING after its start evaluation. -/
theorem feedStep_running {u : State} (start : s.startEval n = u) (h : (u.feed n).state = .running) :
    s.feedStep n = (if s.houseTime.toNat % 256 = 0 then u.setFeed n (u.feed n).servo else u).convertFeed n := by
  have time : u.houseTime = s.houseTime := start ▸ congrArg Prod.fst (kept_startEval s n)
  have servo : u.servoIfDue n = if s.houseTime.toNat % 256 = 0 then u.setFeed n (u.feed n).servo else u := by
    unfold State.servoIfDue
    rw [time]
    simp only [h, true_and]
  have still : ((u.servoIfDue n).feed n).state = .running := by
    rw [servo]
    split
    · rw [feed_setFeed_same]
      exact h
    · exact h
  unfold State.feedStep
  dsimp only
  rw [start, still, servo]

/-- The step of a feed that starts: `v` is the device at its STATE event. -/
theorem feedStep_starts {v : State} {m : Nat} (start : s.startEval n = v.stateEvent n .stateRunning .running)
    (run : (v.feed n).state = .running) (fill : (v.feed n).fill = m) :
    s.feedStep n =
      (if s.houseTime.toNat % 256 = 0 then
          (v.stickyEvent n .stateRunning .state [2, wordNat m]).setFeed n
            ((v.stickyEvent n .stateRunning .state [2, wordNat m]).feed n).servo
        else v.stickyEvent n .stateRunning .state [2, wordNat m]).convertFeed n :=
  feedStep_running (start.trans (stateEvent_of_fill fill)) ((state_stickyEvent ..).trans run)

/-- Settles O47: each state and each start condition by its own rule. -/
theorem feedStepsInOrder : Obligations.FeedStepsInOrder := by
  intro n s x now runs started
  refine ⟨fun st => ?closed, feedStep_draining, fun st => ?running, fun st below => ?below, fun st full => ?untimed,
    fun t st time full => ⟨fun early => ?early, fun onTime => ?onTime, fun late => ?late⟩⟩
  case closed => exact feedStep_idle (startEval_open (.inl st)) (.inl st)
  case running => exact feedStep_running (startEval_open (.inr (.inl st))) st
  case below =>
    rcases st with st | st
    · exact feedStep_idle (startEval_priming_below rfl st below) (.inr (.inl st))
    · exact feedStep_idle (startEval_starved_below rfl st below) (.inr (.inr st))
  case untimed =>
    have start : s.startEval n = (s.setFeed n { x with state := .running }).stateEvent n .stateRunning .running := by
      rcases st with st | ⟨st, time⟩
      · exact startEval_starved rfl st full
      · exact startEval_untimed rfl st time full
    exact feedStep_starts start (by simp) (by simp)
  case early => exact feedStep_idle (startEval_early rfl st time full early) (.inr (.inl st))
  case onTime =>
    have start := startEval_timed rfl st time full (BitVec.le_of_eq onTime)
    rw [if_neg (by rw [onTime]; exact BitVec.lt_irrefl _)] at start
    exact feedStep_starts start (by simp) (by simp)
  case late =>
    have start := startEval_timed rfl st time full (BitVec.le_of_lt late)
    rw [if_pos late] at start
    exact feedStep_starts start (by rw [State.plainEvent, feed_event]; simp) (by rw [State.plainEvent, feed_event]; simp)

/-! ### The conversion of one instant (R38 to R42, R52, R55) -/

theorem outputFeed_eq {y : Int} (hy : filterOutput (s.kernel (s.feed n).kernel) (s.feed n).position (s.feed n).history = y) :
    s.outputFeed n =
      (if y < -8388608 ∨ 8388607 < y then
          (s.setFeed n { s.feed n with clipCount := min ((s.feed n).clipCount + 1) 65535 }).stickyEvent n .feedClip .feedClip
            [BitVec.ofInt 32 y]
        else s).putOutput n (BitVec.ofInt 24 (max (-8388608) (min y 8388607))) := by
  rw [← hy]
  simp only [State.outputFeed, clips24, decide_eq_true_eq]
  rfl

theorem convertFeed_enough (h : (s.feed n).carry ≤ (s.feed n).fill) : s.convertFeed n = (s.advanceFeed n).outputFeed n :=
  if_neg (Nat.not_lt.2 h)

theorem convertFeed_running (short : (s.feed n).fill < (s.feed n).carry) (h : (s.feed n).state = .running) :
    s.convertFeed n = ((s.advanceFeed n).outputFeed n).starve n ((s.feed n).carry - (s.feed n).fill) := by
  refine (if_pos short).trans ?_
  rw [h]

theorem convertFeed_draining (short : (s.feed n).fill < (s.feed n).carry) (h : (s.feed n).state = .draining) :
    s.convertFeed n = ((s.advanceFeed n).outputFeed n).endDrain n := by
  refine (if_pos short).trans ?_
  rw [h]

theorem starve_eq (m : Nat) :
    s.starve n m =
      ((s.setFeed n { s.feed n with
          state := .starved, history := List.replicate 16 0
          underrunCount := min ((s.feed n).underrunCount + 1) 65535 }).stickyEvent n .underrun .underrun
        [wordNat m]).stickyEvent n .stateStarved .state [3, wordNat (s.feed n).fill] :=
  stateEvent_of_fill (k := .stateStarved) (st := .starved) ((fill_stickyEvent ..).trans (by simp))

theorem endDrain_eq : s.endDrain n = (s.closeFeed n).stickyEvent n .stateClosed .state [0, 0] :=
  stateEvent_of_fill (k := .stateClosed) (st := .closed) (m := 0) (by rw [feed_closeFeed_same]; rfl)

/-- Settles O48: the advance, the output, and the two ways a short buffer ends. -/
theorem conversionConsumesAndFilters : Obligations.ConversionConsumesAndFilters := by
  intro n s x sum k real u v y clips w out
  have output : (s.advanceFeed n).outputFeed n = out := outputFeed_eq (s := v) rfl
  refine ⟨fun enough => (convertFeed_enough enough).trans output, fun short st => ?starves, fun short st => ?closes⟩
  case starves => exact (convertFeed_running short st).trans (by rw [output]; exact starve_eq _)
  case closes => exact (convertFeed_draining short st).trans (by rw [output]; exact endDrain_eq)

end

end Sys2Proof.Machine

/-! PROOFS. A bus in the mix (file 01), and the egress of the links (file 10): bus frames, and the choice of the next frame. -/

namespace Sys2Proof.Machine

/-! ### The fifth stage (R24 to R26, R81) -/

section
variable {s : State} {b : Nat} {v : Sample} {w : InstantWork}

theorem word_event (s : State) (k : EventKind) (tag : Nat) (st : Status) (x : Subject) (ws : List Word) :
    (s.event k tag st x ws).word = s.word := by
  show (s.offer _).word = s.word
  rw [offer_eq]
  rfl

theorem instant_event (s : State) (k : EventKind) (tag : Nat) (st : Status) (x : Subject) (ws : List Word) :
    (s.event k tag st x ws).instant = s.instant := by
  show (s.offer _).instant = s.instant
  rw [offer_eq]

theorem bus_busClip (r2 : Int) :
    (s.busClip b r2).bus b = { s.bus b with clipCount := add16 (s.bus b).clipCount 1, clipFlag := true } := bus_setBus_same ..

theorem word_busClip (r2 : Int) : (s.busClip b r2).word = s.word := by
  cases h : (s.bus b).clipFlag
  · simp [State.busClip, h, State.plainEvent, word_event]
  · simp [State.busClip, h]

theorem instant_busClip (r2 : Int) : (s.busClip b r2).instant = s.instant := by
  cases h : (s.bus b).clipFlag
  · simp [State.busClip, h, State.setBus, State.plainEvent, instant_event]
  · simp [State.busClip, h, State.setBus]

theorem delayLine_none (h : (s.bus b).delay = 0) : s.delayLine b v = (s, v) := if_pos h

theorem delayLine_some (h : (s.bus b).delay ≠ 0) :
    s.delayLine b v =
      ((s.setWord (pageAddress (s.bus b).pages (s.bus b).index) v).setBus b
        { s.bus b with index := ((s.bus b).index + 1) % (s.bus b).delay },
        s.word (pageAddress (s.bus b).pages (s.bus b).index)) := if_neg h

theorem putFinished_of (hw : s.instant = some w) :
    s.putFinished b v = { s with instant := some { w with finished := w.finished ++ [(b, v)] } } := by
  unfold State.putFinished
  rw [hw]

theorem mixBus_outside (h : (s.bus b).inMix = false) : s.mixBus b = s := by
  unfold State.mixBus
  cases s.instant with
  | none => rfl
  | some w => exact if_neg (by simp [h])

/-- The device after the clip rule of an instant whose value before saturation is `r2` (R25). -/
def State.clipped (s : State) (b : Nat) (r2 : Int) : State :=
  if r2 < -8388608 ∨ 8388607 < r2 then
    (if (s.bus b).clipFlag then s
      else s.plainEvent .clip (.bus b) [BitVec.ofInt 32 (max (-2147483648) (min r2 2147483647))]).setBus b
      { s.bus b with clipCount := min ((s.bus b).clipCount + 1) 65535, clipFlag := true }
  else s

theorem clipped_eq (r2 : Int) : (if clips24 r2 then s.busClip b r2 else s) = s.clipped b r2 := by
  simp only [clips24, decide_eq_true_eq]
  rfl

/-- What the clip rule leaves: the bus's delay line, sample memory, and the instant in progress. -/
theorem clipped_leaves (r2 : Int) :
    (((s.clipped b r2).bus b).delay, ((s.clipped b r2).bus b).index, ((s.clipped b r2).bus b).pages, (s.clipped b r2).word,
        (s.clipped b r2).instant) =
      ((s.bus b).delay, (s.bus b).index, (s.bus b).pages, s.word, s.instant) := by
  rw [← clipped_eq]
  split
  · rw [bus_busClip, word_busClip, instant_busClip]
  · rfl

theorem mixBus_inMix {r2 : Int} (hw : s.instant = some w) (h : (s.bus b).inMix = true)
    (hr : (s.bus b).mixed (cellGet 0 w.sums b) (cellGet 0 w.outputs (s.bus b).soloFeed).toInt = r2) :
    s.mixBus b =
      ((s.clipped b r2).delayLine b (BitVec.ofInt 24 (saturate24 r2))).1.putFinished b
        (if (s.bus b).mute then 0 else ((s.clipped b r2).delayLine b (BitVec.ofInt 24 (saturate24 r2))).2) := by
  unfold State.mixBus
  rw [hw]
  dsimp only
  rw [if_pos h, hr, clipped_eq]

/-- Settles O50: the value before saturation, its clip rule, and the delay line behind it. -/
theorem busesMix : Obligations.BusesMix := by
  intro b w s hw x r2 v clips flagged u cell finish
  have mix (st : x.state = .enabled ∨ x.state = .disabling) := mixBus_inMix hw (decide_eq_true st) (r2 := r2) rfl
  have leaves := clipped_leaves (s := s) (b := b) r2
  simp only [Prod.mk.injEq] at leaves
  obtain ⟨delay, index, pages, word, instant⟩ := leaves
  refine ⟨fun st => mixBus_outside ?outside, fun st zero => (mix st).trans ?direct, fun st delayed => (mix st).trans ?delayed⟩
  case outside => rcases st with st | st <;> exact decide_eq_false (by rw [st]; simp)
  case direct =>
    rw [delayLine_none (delay.trans zero)]
    exact putFinished_of (instant.trans hw)
  case delayed =>
    rw [delayLine_some (by rw [delay]; exact delayed), delay, index, pages, word]
    exact putFinished_of (instant.trans hw)

end

/-! ### Bus frames (R176) -/

section
variable {s : State} {l : Link} {asm : Assembly} {finished : List (Nat × Sample)}

theorem busList_eq :
    s.busList l =
      (List.range 64).filter fun b =>
        decide (((s.bus b).state = .enabled ∨ (s.bus b).state = .disabling) ∧ (s.bus b).link = some l) := by
  refine List.filter_congr fun b _ => ?_
  simp [Bus.inMix]

theorem begunAssembly_new (h : s.houseTime.toNat % s.framing.get l = 0) :
    s.begunAssembly l = some { t0 := s.houseTime, buses := s.busList l, rows := [] } := if_pos h

theorem begunAssembly_old (h : s.houseTime.toNat % s.framing.get l ≠ 0) : s.begunAssembly l = (s.arb l).assembly := if_neg h

theorem handLink_none (h : s.begunAssembly l = none) : s.handLink l finished = s := by
  unfold State.handLink
  rw [h]

theorem handLink_grows (h : s.begunAssembly l = some asm) (more : asm.rows.length + 1 ≠ s.framing.get l) :
    s.handLink l finished =
      s.setArb l
        { s.arb l with assembly := some { asm with rows := asm.rows ++ [asm.buses.map (cellGet 0 finished)] } } := by
  unfold State.handLink
  rw [h]
  exact if_neg (by simpa [Assembly.take] using more)

theorem handLink_completes (h : s.begunAssembly l = some asm) (last : asm.rows.length + 1 = s.framing.get l) :
    s.handLink l finished =
      s.setArb l ((s.arb l).complete (s.linkUp l) l (s.framing.get l) (asm.take finished)) := by
  unfold State.handLink
  rw [h]
  exact if_pos (by simpa [Assembly.take] using last)

theorem complete_empty {a : Arbiter} {up : Bool} {k : Nat} (h : asm.buses = []) :
    a.complete up l k asm = { a with assembly := none } := if_pos h

theorem complete_some {a : Arbiter} {up : Bool} {k : Nat} (h : asm.buses ≠ []) :
    a.complete up l k asm =
      { a with
        assembly := none
        busSequence := (a.busSequence + 1) % 65536
        due :=
          if up then
            some { link := l, sequence := a.busSequence, t0 := asm.t0, k := k, buses := asm.buses, rows := asm.rows }
          else a.due } := if_neg h

theorem handStep_num : s.handStep l.num = s.handLink l s.work.finished := by cases l <;> rfl

/-- The complete assembly of a bus frame. -/
theorem handLink_frame (h : s.begunAssembly l = some asm) (last : asm.rows.length + 1 = s.framing.get l) (nonempty : asm.buses ≠ []) :
    s.handLink l finished =
      s.setArb l
        { s.arb l with
          assembly := none
          busSequence := ((s.arb l).busSequence + 1) % 65536
          due :=
            if s.linkUp l then
              some
                { link := l, sequence := (s.arb l).busSequence, t0 := asm.t0, k := s.framing.get l, buses := asm.buses,
                  rows := asm.rows ++ [asm.buses.map (cellGet 0 finished)] }
            else (s.arb l).due } :=
  (handLink_completes h last).trans (congrArg (s.setArb l) (complete_some (asm := asm.take finished) nonempty))

/-- A link's place in the instant and its arbiter are set independently. -/
theorem setArb_place (a : Arbiter) (n : Nat) :
    { s.setArb l a with instant := some { (s.setArb l a).work with nextLink := n } } =
      { s with instant := some { s.work with nextLink := n } }.setArb l a := rfl

/-- The row BUS_FRAME_COMPLETE where its link's frame is complete. -/
theorem exec_busFrameComplete {t : State} (run : s.engine = .run) (next : (s.inInstant.handTo l.num).work.nextLink = l.num)
    (h : (s.inInstant.handTo l.num).begunAssembly l = some asm) (nonempty : asm.buses ≠ [])
    (last : asm.rows.length + 1 = (s.inInstant.handTo l.num).framing.get l)
    (step : (s.inInstant.handTo l.num).handLink l (s.inInstant.handTo l.num).work.finished = t) :
    exec (.busFrameComplete l) s = .next { t with instant := some { t.work with nextLink := l.num + 1 } }.settle := by
  have before := at_handTo l.num (at_work (inInstant_isSome s))
  have places := (instant_of_at before).2
  have size : (s.inInstant.handTo l.num).tableSize .route = s.inInstant.tableSize .route :=
    tableSize_of_settings (settings_handTo ..) _
  simp only [InstantWork.places, Prod.mk.injEq] at places
  obtain ⟨buses, feeds, routes, mixed, -⟩ := places
  have here := at_work_of before
  rw [next] at here
  have completes : (s.inInstant.handTo l.num).frameCompletes l = true := by
    unfold State.frameCompletes
    rw [h]
    simp [last, nonempty]
  refine (congrArg Host.Outcome.next (instantPart_occurs (occurs := fun t => t.frameCompletes l) run next completes)).trans ?_
  rw [handTo_next here (by omega) (by omega) (by omega) (by omega), handStep_num, step]

/-- Settles O51: an assembly begun or continued, grown or complete, and the row at the place of its link. -/
theorem busFramesComplete : Obligations.BusFramesComplete := by
  refine ⟨?stage, ?row⟩
  case stage =>
    intro l finished s a k list
    have buses : s.busList l = list := busList_eq
    refine ⟨fun now more => ?begins, fun one empty => ?noFrame, fun within none => handLink_none ((begunAssembly_old within).trans none),
      fun asm within going => ⟨fun more => handLink_grows ((begunAssembly_old within).trans going) more, fun last empty => ?dropped⟩⟩
    case begins =>
      rw [← buses]
      exact handLink_grows (begunAssembly_new now) (by show 0 + 1 ≠ k; omega)
    case noFrame =>
      have now : s.houseTime.toNat % s.framing.get l = 0 := by
        rw [show s.framing.get l = 1 from one]
        exact Nat.mod_one _
      rw [handLink_completes (begunAssembly_new now) one.symm, complete_empty (buses.trans empty)]
    case dropped => rw [handLink_completes ((begunAssembly_old within).trans going) last, complete_empty (by exact empty)]
  case row =>
    intro l asm s run u a rows next h nonempty last
    exact (exec_busFrameComplete run next h nonempty last (handLink_frame h last nonempty)).trans
      (congrArg (fun t : State => Host.Outcome.next t.settle) (setArb_place _ _))

end

/-! ### The choice of the next frame (R172 to R175, R178) -/

section
variable {s : State} {l : Link} (up : s.linkUp l = true) (free : (s.arb l).sending = none)
include up free

theorem choose_bus {f : BusFrame} (due : (s.arb l).due = some f) :
    s.choose l = s.setArb l { s.arb l with due := none, sending := some (.bus f) } := by
  refine (if_pos (by simp [up, free])).trans ?_
  rw [due]

theorem choose_flow {f : FlowFrame} {q : List FlowFrame} (due : (s.arb l).due = none) (flow : (s.arb l).flowQueue = f :: q) :
    s.choose l = s.setArb l { s.arb l with flowQueue := q, sending := some (.flow f) } := by
  refine (if_pos (by simp [up, free])).trans ?_
  simp only [due, flow]

theorem choose_report (due : (s.arb l).due = none) (flow : (s.arb l).flowQueue = []) (ready : s.reportReady l = true) :
    s.choose l = s.formReport l := by
  refine (if_pos (by simp [up, free])).trans ?_
  rw [due, flow]
  exact if_pos ready

theorem choose_pass {p : PassFrame} {q : List PassFrame} (due : (s.arb l).due = none) (flow : (s.arb l).flowQueue = [])
    (unready : s.reportReady l = false) (pass : (s.arb l).passQueue = p :: q) (credit : 1 ≤ (s.arb l).passCredit) :
    s.choose l =
      s.setArb l { s.arb l with passQueue := q, passCredit := (s.arb l).passCredit - 1, sending := some (.pass p.frame) } := by
  refine (if_pos (by simp [up, free])).trans ?_
  simp only [due, flow, unready, pass, Bool.false_eq_true, if_false, if_pos credit]

theorem choose_nothing (due : (s.arb l).due = none) (flow : (s.arb l).flowQueue = []) (unready : s.reportReady l = false)
    (pass : (s.arb l).passQueue = [] ∨ (s.arb l).passCredit = 0) : s.choose l = s := by
  refine (if_pos (by simp [up, free])).trans ?_
  rw [due, flow]
  refine (if_neg (by simp [unready])).trans ?_
  cases queue : (s.arb l).passQueue with
  | nil => rfl
  | cons p q => exact if_neg (by simpa [queue] using pass)

end

section
variable {s : State} {l : Link}

theorem reportReady_of (link : s.reportLink = l) (credit : 1 ≤ (s.arb l).reportCredit) (reports : s.reports ≠ []) :
    s.reportReady l = true := by
  simp [State.reportReady, link, credit, reports]

theorem reportReady_not (h : s.reportLink ≠ l ∨ (s.arb l).reportCredit = 0 ∨ s.reports = []) : s.reportReady l = false := by
  rcases h with h | h | h <;> simp [State.reportReady, h]

/-- Settles O52: the end of a step, and the classes in their order. -/
theorem egressChoosesInOrder : Obligations.EgressChoosesInOrder := by
  refine ⟨fun l s => ⟨rfl, rfl⟩, fun l s => ?_⟩
  intro a
  exact ⟨choose_idle, fun up free =>
    ⟨fun f due => choose_bus up free due, fun f q due flow => choose_flow up free due flow,
      fun due flow link credit reports => choose_report up free due flow (reportReady_of link credit reports),
      fun p q due flow unready pass credit => choose_pass up free due flow (reportReady_not unready) pass credit,
      fun due flow unready pass => choose_nothing up free due flow (reportReady_not unready) pass⟩⟩

end

end Sys2Proof.Machine
